-- ==== Sys2Proof/Word.lean ====
section
/-! DEFINITION. The word types of the block (00_scope.md rules R10, R11): `u8` and `u32`. -/

namespace Sys2Proof

/-- A `u8`: one byte of the medium or of a buffer (R10). -/
abbrev Byte := BitVec 8

/-- A `u32`: a host register, a host address or a command word (R10, R66, R100). -/
abbrev Word := BitVec 32

end Sys2Proof
end

