-- ==== Sys2Proof/Syntax.lean ====
section
/-! DEFINITION. The commands of the block (30_encoding.md rule R101), one constructor per row of
spec/opcode_table.json. A command's operands are registers and buffers (R109), not part of its word. -/

namespace Sys2Proof

/-- A legal command word (R101, R108). Only READ_PAGE has both flags free; WRITE_PAGE's `D` must be 1 (R102),
so only its `O` is a field; every other command has `D = O = 0` (R102, R103). So every term of this type is
well formed, and the fifteen terms are the fifteen legal words of R108. -/
inductive Instr where
  /-- READ_ID (R211). -/
  | readId
  /-- READ_PAGE (R214): `d` is the data flag, `o` the OOB flag. -/
  | readPage (d o : Bool)
  /-- WRITE_PAGE.D (R220): `o` is the OOB flag. -/
  | writePage (o : Bool)
  /-- MOVE_PAGE (R226). -/
  | movePage
  /-- ERASE_BLOCK (R232). -/
  | eraseBlock
  /-- ERASE_WINDOW (R240). -/
  | eraseWindow
  /-- ECC_CODEWORD (R150). -/
  | eccCodeword
  /-- ECC_PAGE (R154). -/
  | eccPage
  /-- ECC_VERIFY (R158). -/
  | eccVerify
  /-- TRANSLATE (R188). -/
  | translate
  /-- PLANE_CHECK (R190). -/
  | planeCheck
  deriving DecidableEq, Repr

end Sys2Proof
end

