-- ==== Sys2Proof/Decode.lean ====
section
/-! DEFINITION. The command decoder and encoder (30_encoding.md rules R100 to R108). -/

namespace Sys2Proof

/-- Why a command word is no legal command: the four cases of R106. Each makes the command complete
`BAD_COMMAND` and do nothing else. -/
inductive DecodeError where
  /-- R106 item 1: a 1 in bits `[31:10]`. -/
  | reservedBits
  /-- R106 item 2: `OP` is not in the table of R101. -/
  | reservedOpcode
  /-- R106 item 3: WRITE_PAGE with `D = 0`. -/
  | missingPayload
  /-- R106 item 4: `D` or `O` set on a command that has no flag. -/
  | flagNotAllowed
  deriving DecidableEq, Repr

/-- `[7:0] OP` (R100). -/
def fieldOp (w : Word) : BitVec 8 := w.extractLsb' 0 8

/-- `[8] D` (R100, R102). -/
def fieldD (w : Word) : Bool := w.getLsbD 8

/-- `[9] O` (R100, R103). -/
def fieldO (w : Word) : Bool := w.getLsbD 9

/-- `[31:10]`, reserved, must be 0 (R100). -/
def fieldReserved (w : Word) : BitVec 22 := w.extractLsb' 10 22

/-- The rows of R101's opcode table whose commands take no flag. -/
def flaglessCommand (op : BitVec 8) : Option Instr :=
  match op.toNat with
  | 0x01 => some .readId
  | 0x04 => some .movePage
  | 0x05 => some .eraseBlock
  | 0x06 => some .eraseWindow
  | 0x10 => some .eccCodeword
  | 0x11 => some .eccPage
  | 0x12 => some .eccVerify
  | 0x20 => some .translate
  | 0x21 => some .planeCheck
  | _ => none

/-- `decode` of R106, for a word whose reserved bits are 0. -/
def decodeFields (op : BitVec 8) (d o : Bool) : Except DecodeError Instr :=
  match op.toNat with
  | 0x02 => .ok (.readPage d o)
  | 0x03 => if d then .ok (.writePage o) else .error .missingPayload
  | _ =>
    match flaglessCommand op with
    | none => .error .reservedOpcode
    | some i => if d || o then .error .flagNotAllowed else .ok i

/-- `decode` of R106: total on all `2^32` command words, with the checks in the rule's order. -/
def decodeCommand (w : Word) : Except DecodeError Instr :=
  if fieldReserved w = 0 then decodeFields (fieldOp w) (fieldD w) (fieldO w) else .error .reservedBits

/-- A command word from its fields, reserved bits 0 (R100). -/
def packCommand (op : BitVec 8) (d o : Bool) : Word :=
  BitVec.ofNat 32 (op.toNat + (if d then 0x100 else 0) + (if o then 0x200 else 0))

/-- The opcode of a command (R101). -/
def opcode : Instr → BitVec 8
  | .readId => 0x01
  | .readPage _ _ => 0x02
  | .writePage _ => 0x03
  | .movePage => 0x04
  | .eraseBlock => 0x05
  | .eraseWindow => 0x06
  | .eccCodeword => 0x10
  | .eccPage => 0x11
  | .eccVerify => 0x12
  | .translate => 0x20
  | .planeCheck => 0x21

/-- The command word of a command (R100, R101, R108). -/
def encode : Instr → Word
  | .readId => packCommand (opcode .readId) false false
  | .readPage d o => packCommand (opcode (.readPage d o)) d o
  | .writePage o => packCommand (opcode (.writePage o)) true o
  | .movePage => packCommand (opcode .movePage) false false
  | .eraseBlock => packCommand (opcode .eraseBlock) false false
  | .eraseWindow => packCommand (opcode .eraseWindow) false false
  | .eccCodeword => packCommand (opcode .eccCodeword) false false
  | .eccPage => packCommand (opcode .eccPage) false false
  | .eccVerify => packCommand (opcode .eccVerify) false false
  | .translate => packCommand (opcode .translate) false false
  | .planeCheck => packCommand (opcode .planeCheck) false false

/-- The command word that `nbits` low bits `w` of the table's numbering stand for: a command is ONE 32-bit word
(R100), bit 0 its least significant bit, and every bit from `nbits` up is 0. -/
def tableWord (nbits w : Nat) : Word := BitVec.ofNat 32 (w % 2 ^ nbits)

/-- The command the decoder reads from an opcode-table word. -/
def decodeTableWord (nbits w : Nat) : Option Instr :=
  match decodeCommand (tableWord nbits w) with
  | .ok i => some i
  | .error _ => none

end Sys2Proof
end

