-- ==== Sys2Proof/Machine/Ecc.lean ====
section
/-! DEFINITION. The ECC codec as pure functions (40_ecc_codec.md rules R140 to R146, R151, R152). The bit positions are
the spec's, which marks them as general knowledge: UNVERIFIED (notes/assumptions/15.md), unsafe. -/

namespace Sys2Proof.Machine

/-- `popcount(v)` of R11, for a byte. -/
def popcount (b : Byte) : Nat := ((List.range 8).map fun k => (b.getLsbD k).toNat).sum

/-- `P(i) = popcount(d[i]) mod 2`, as whether the byte's parity is odd (R141). -/
def oddParity (b : Byte) : Bool := popcount b % 2 == 1

/-- The column sum `col`: the XOR of all bytes (R141). -/
def columnSum : List Byte → Byte
  | [] => 0
  | b :: bs => b ^^^ columnSum bs

/-- `oddL` over the bytes of a list whose first has index `i`: each byte of odd parity contributes its index
(R142). XOR does not depend on the order of the loop. -/
def oddLine : Nat → List Byte → Byte
  | _, [] => 0
  | i, b :: bs => (if oddParity b then BitVec.ofNat 8 i else 0) ^^^ oddLine (i + 1) bs

/-- `evenL`, likewise: each byte of odd parity contributes `255 - i`, that is `NOT i` (R142). -/
def evenLine : Nat → List Byte → Byte
  | _, [] => 0
  | i, b :: bs => (if oddParity b then ~~~(BitVec.ofNat 8 i) else 0) ^^^ evenLine (i + 1) bs

/-- The column accumulators (R143): the XOR over the set bits `b` of `col` of what each contributes. -/
def columnFold (contribution : Nat → Byte) (col : Byte) : Byte :=
  (List.range 8).foldl (fun acc b => if col.getLsbD b then acc ^^^ contribution b else acc) 0

/-- `oddC`: a set bit `b` contributes `b` (R143). -/
def oddColumn (col : Byte) : Byte := columnFold (fun b => BitVec.ofNat 8 b) col

/-- `evenC`: a set bit `b` contributes `7 - b` (R143). -/
def evenColumn (col : Byte) : Byte := columnFold (fun b => BitVec.ofNat 8 (7 - b)) col

/-- The pair `{odd[k], even[k]}` (R144). -/
def bitPair (odd even : Byte) (k : Nat) : Byte :=
  BitVec.ofNat 8 (2 * (odd.getLsbD k).toNat + (even.getLsbD k).toNat)

/-- The interleave loop of R144 over the bit numbers given, most significant pair first. -/
def interleave (odd even : Byte) (bits : List Nat) : Byte :=
  bits.foldl (fun r k => (r <<< 2) ||| bitPair odd even k) 0

/-- Three bytes: a code `(c0, c1, c2)` or, before inversion, `(r0, r1, r2)`. -/
structure Code where
  c0 : Byte
  c1 : Byte
  c2 : Byte
  deriving DecidableEq, Repr

/-- The code's bytes in the order they are stored, `c0` first (R62, R145). -/
def Code.bytes (c : Code) : List Byte := [c.c0, c.c1, c.c2]

/-- `r0, r1, r2` of R144: line bits 7 to 4, line bits 3 to 0, column bits 2 to 0 and a pad pair of zeros. -/
def rawCode (d : List Byte) : Code where
  c0 := interleave (oddLine 0 d) (evenLine 0 d) [7, 6, 5, 4]
  c1 := interleave (oddLine 0 d) (evenLine 0 d) [3, 2, 1, 0]
  c2 := interleave (oddColumn (columnSum d)) (evenColumn (columnSum d)) [2, 1, 0] <<< 2

/-- `compute_codeword(d)` (R140): the raw code inverted (R145). -/
def computeCodeword (d : List Byte) : Code where
  c0 := ~~~(rawCode d).c0
  c1 := ~~~(rawCode d).c1
  c2 := ~~~(rawCode d).c2

/-- Codeword `k` of a page's payload, `data[256k .. 256k + 256)` (R62). -/
def codewordOf (data : List Byte) (k : Nat) : List Byte := (data.drop (256 * k)).take 256

/-- `compute_page_ecc(data, size)` with `size = len(data)` (R151). -/
def computePageEcc (data : List Byte) : List Byte :=
  (List.range (data.length / 256)).flatMap fun k => (computeCodeword (codewordOf data k)).bytes

/-- `ecc_ok(data, oob)` (R152): byte-for-byte equality with the first `ECC_SIZE` bytes of the OOB region. -/
def eccOk (eccSize : Nat) (data oob : List Byte) : Bool := computePageEcc data == oob.take eccSize

/-- The word ECC_CODEWORD packs, `{0x00, c2, c1, c0}` (R72, R150). -/
def Code.pack (c : Code) : Word := (0 : Byte) ++ c.c2 ++ c.c1 ++ c.c0

end Sys2Proof.Machine
end

