-- ==== Sys2Proof/Config.lean ====
section
/-! DEFINITION. What one built block fixes (00_scope.md rule R6), and the free values of the model.
Every constant here is opaque: nothing in Lean can evaluate it, so a theorem holds whatever it is. -/

namespace Sys2Proof

/-- The parameters a block is built with (R6), as raw numbers; `Params.wf` (WellFormed.lean) is rule R8.
`INITIAL_IMAGE`, the last row of R6's table, is only read by the first reset: it is `Config.initialImage`. -/
structure Params where
  /-- `PLANE_NUM`, the plane count. -/
  planeNum : Nat
  /-- `OOB_SIZE`, the OOB bytes of a page. -/
  oobSize : Nat
  /-- `PAGE_DATA_SIZE`, the payload bytes of a page. -/
  pageDataSize : Nat
  /-- `PAGES_PER_BLOCK`. -/
  pagesPerBlock : Nat
  /-- `BLOCK_START`, the first physical block of the partition window. -/
  blockStart : Nat
  /-- `BLOCK_END`, the exclusive end bound of the window (90_conflicts.md C1). -/
  blockEnd : Nat
  /-- `BLOCKS_IN_DEVICE`, the blocks on the whole medium (90_conflicts.md C6). -/
  blocksInDevice : Nat
  /-- `READ_ID_VALUE`, the placeholder READ_ID returns (OPEN, 92_eei_decisions.md D15). -/
  readIdValue : Nat
  deriving DecidableEq, Repr, Inhabited

/-- The parameters of the block that `State.reset` resets (OPEN: 92_eei_decisions.md D15, 93 U3, U8).
DESIGN CHOICE (notes/assumptions/1.md), safe: an opaque constant. -/
opaque Config.params : Params

/-- `INITIAL_IMAGE`: what the medium held before the first reset, of any length (R6, R65, D21).
DESIGN CHOICE (notes/assumptions/2.md), safe: an opaque constant. -/
opaque Config.initialImage : List Byte

/-- The bytes that the footprint of an interrupted command takes (70_reset_and_hazards.md rule R297):
"any value", one fresh byte for each count of `State.freeCount`.
DESIGN CHOICE (notes/assumptions/3.md), safe: a free value. -/
opaque Config.freeByte : Nat → Byte

/-- What a geometry register reads when its value does not fit 32 bits. R22 says every value fits by R8,
but R8 admits a `PLANE_NUM` of any size and block or page counts of exactly `2^32`.
DESIGN CHOICE (notes/assumptions/4.md), safe: a free value, a function of the value that does not fit. -/
opaque Config.wideGeometryValue : Nat → Word

end Sys2Proof
end

