-- ==== Sys2Proof/WellFormed.lean ====
section
/-! DEFINITION. Well-formed geometries (00_scope.md rule R8): one named check per item of the rule. A command
needs no check here: every `Instr` is a legal command (Syntax.lean), and an illegal word is refused by name in
Decode.lean. -/

namespace Sys2Proof

/-- R8 item 1: `PAGE_DATA_SIZE` is a positive multiple of 256. -/
def Params.pageDataOk (p : Params) : Bool := decide (0 < p.pageDataSize ∧ p.pageDataSize % 256 = 0)

/-- R8 item 2: `OOB_SIZE >= ECC_SIZE` (R7: `ECC_SIZE = PAGE_DATA_SIZE * 3 / 256`). -/
def Params.oobOk (p : Params) : Bool := decide (p.pageDataSize * 3 / 256 ≤ p.oobSize)

/-- R8 item 3: `PLANE_NUM >= 1` and `PLANE_NUM` is a power of two. -/
def Params.planeOk (p : Params) : Bool := decide (1 ≤ p.planeNum ∧ 2 ^ p.planeNum.log2 = p.planeNum)

/-- R8 item 4: `PAGES_PER_BLOCK >= 1`. -/
def Params.pagesOk (p : Params) : Bool := decide (1 ≤ p.pagesPerBlock)

/-- R8 item 5: `BLOCK_START < BLOCK_END <= BLOCKS_IN_DEVICE`. -/
def Params.windowOk (p : Params) : Bool := decide (p.blockStart < p.blockEnd ∧ p.blockEnd ≤ p.blocksInDevice)

/-- R8 item 6: `PAGE_DATA_SIZE <= 2^28` and `OOB_SIZE <= 2^28`, so each buffer fits its host-port window. -/
def Params.buffersFit (p : Params) : Bool := decide (p.pageDataSize ≤ 2 ^ 28 ∧ p.oobSize ≤ 2 ^ 28)

/-- R8 item 7: `BLOCKS_IN_DEVICE * PAGES_PER_BLOCK <= 2^32`. -/
def Params.pageNumbersFit (p : Params) : Bool := decide (p.blocksInDevice * p.pagesPerBlock ≤ 2 ^ 32)

/-- R8 item 8: `READ_ID_VALUE < 2^32`. -/
def Params.readIdFits (p : Params) : Bool := decide (p.readIdValue < 2 ^ 32)

/-- Rule R8: all eight items hold. -/
def Params.wf (p : Params) : Bool :=
  p.pageDataOk && p.oobOk && p.planeOk && p.pagesOk && p.windowOk && p.buffersFit && p.pageNumbersFit && p.readIdFits

/-- A geometry the model has a state for. "The model refuses an ill-formed geometry before reset and has no state
for it" (R8): the proof is part of the value, so no state holds an ill-formed one. -/
structure Geometry extends Params where
  wellFormed : toParams.wf = true
  deriving DecidableEq, Repr

/-- The refusal of R8: an ill-formed geometry is no geometry. -/
def Geometry.ofParams? (p : Params) : Option Geometry :=
  if h : p.wf = true then some ⟨p, h⟩ else none

/-- The geometry `GS` of 95_test_vectors.md. -/
def Geometry.small : Geometry :=
  { planeNum := 2, oobSize := 8, pageDataSize := 256, pagesPerBlock := 4, blockStart := 2, blockEnd := 6
    blocksInDevice := 8, readIdValue := 0, wellFormed := by decide }

/-- The geometry of the block that `State.reset` resets: that of the opaque `Config.params`. An ill-formed one is
refused before reset and leads to no state (R8); a constant must still have a value then, and `GS` stands in.
DESIGN CHOICE (notes/assumptions/1.md), safe: every well-formed geometry remains possible. -/
def Config.geometry : Geometry := (Geometry.ofParams? Config.params).getD Geometry.small

end Sys2Proof
end

