-- ==== Sys2Proof/Machine/Geometry.lean ====
section
/-! DEFINITION. The derived quantities of the geometry (00_scope.md rule R7) and the layout of the medium
(20_memory.md rule R61). All are exact natural numbers, with no wrap-around (R10, 92_eei_decisions.md D12). -/

namespace Sys2Proof

/-- `ECC_SIZE = PAGE_DATA_SIZE * 3 / 256` (R7). -/
def Geometry.eccSize (g : Geometry) : Nat := g.pageDataSize * 3 / 256

/-- `OOB_FREE = OOB_SIZE - ECC_SIZE` (R7; R8 item 2 makes it exact). -/
def Geometry.oobFree (g : Geometry) : Nat := g.oobSize - g.eccSize

/-- `CODEWORDS_PER_PAGE = PAGE_DATA_SIZE / 256` (R7). -/
def Geometry.codewordsPerPage (g : Geometry) : Nat := g.pageDataSize / 256

/-- `PAGE_SIZE = PAGE_DATA_SIZE + OOB_SIZE` (R7). -/
def Geometry.pageSize (g : Geometry) : Nat := g.pageDataSize + g.oobSize

/-- `BLOCK_SIZE = PAGES_PER_BLOCK * PAGE_SIZE` (R7). -/
def Geometry.blockSize (g : Geometry) : Nat := g.pagesPerBlock * g.pageSize

/-- `MEDIUM_SIZE = BLOCKS_IN_DEVICE * BLOCK_SIZE` (R7). -/
def Geometry.mediumSize (g : Geometry) : Nat := g.blocksInDevice * g.blockSize

/-- `BLOCK_TOTAL = BLOCK_END - BLOCK_START` (R7; R8 item 5 makes it exact). -/
def Geometry.blockTotal (g : Geometry) : Nat := g.blockEnd - g.blockStart

/-- `page_base(pp) = pp * PAGE_SIZE`: where a Page Record begins, its payload first (R61). -/
def Geometry.pageBase (g : Geometry) (pp : Nat) : Nat := pp * g.pageSize

/-- Where the OOB region of physical page `pp` begins, just after its payload (R61). -/
def Geometry.oobBase (g : Geometry) (pp : Nat) : Nat := g.pageBase pp + g.pageDataSize

/-- `block_base(b) = b * BLOCK_SIZE` (R61). -/
def Geometry.blockBase (g : Geometry) (b : Nat) : Nat := b * g.blockSize

/-- `block_of(pp) = pp / PAGES_PER_BLOCK` (R61). -/
def Geometry.blockOf (g : Geometry) (pp : Nat) : Nat := pp / g.pagesPerBlock

/-- The physical blocks of the partition window, `BLOCK_START` to `BLOCK_END - 1`, ascending (R15, R240). -/
def Geometry.windowBlocks (g : Geometry) : List Nat :=
  (List.range g.blockTotal).map fun k => g.blockStart + k

end Sys2Proof
end

