-- ==== Sys2Proof/Machine/Memory.lean ====
section
/-! DEFINITION. Byte stores as plain data: a list of (address, byte) cells with strictly rising addresses. The
MEDIUM (20_memory.md rules R60, R63, R64) reads the erase value at an unlisted address and lists no erase value;
a BUFFER (10_state.md rule R33) holds no value at an unlisted index. -/

namespace Sys2Proof.Machine

/-- A byte store. -/
abbrev Memory := List Host.Cell

/-- The erase value, `0xFF` (R64): what a byte of the medium that is not listed reads as. -/
def eraseValue : Byte := 0xFF

/-- `fill(n, v)` of R12 at the erase value. -/
def erased (n : Nat) : List Byte := List.replicate n eraseValue

/-- The byte listed at an address. -/
def Memory.lookup : Memory → Nat → Option Byte
  | [], _ => none
  | (k, v) :: rest, a => if k = a then some v else Memory.lookup rest a

/-- A byte string as cells at ascending addresses from `base`. -/
def Memory.cellsAt : Nat → List Byte → Memory
  | _, [] => []
  | base, b :: bs => (base, b) :: Memory.cellsAt (base + 1) bs

/-- The store with its cells in `[base, base + n)` replaced by `new`, cells of that range. -/
def Memory.replace (m : Memory) (base n : Nat) (new : Memory) : Memory :=
  m.filter (fun c => c.1 < base) ++ (new ++ m.filter (fun c => base + n ≤ c.1))

/-- Addresses strictly rise. -/
abbrev Memory.Sorted (m : Memory) : Prop := m.Pairwise fun x y => x.1 < y.1

/-- Every listed address is below `size`. -/
abbrev Memory.Below (m : Memory) (size : Nat) : Prop := ∀ c ∈ m, c.1 < size

/-! ### The medium -/

/-- One byte of the medium (R60): every address holds one. No command reads past `MEDIUM_SIZE`.
DESIGN CHOICE for the addresses past it (notes/assumptions/17.md), safe. -/
def Memory.read (m : Memory) (a : Nat) : Byte := (m.lookup a).getD eraseValue

/-- `MemRead(addr, n)` of R13. -/
def Memory.readBytes (m : Memory) (base n : Nat) : List Byte := (List.range n).map fun k => m.read (base + k)

/-- `MemWrite(addr, n, v)` of R13: it overwrites, whatever the bytes held before (R63). -/
def Memory.write (m : Memory) (base : Nat) (bs : List Byte) : Memory :=
  m.replace base bs.length ((Memory.cellsAt base bs).filter fun c => c.2 ≠ eraseValue)

/-- The first-time fill of R65 on an old medium, given as a byte string: byte `a` for every address below both
`MEDIUM_SIZE` and its length, the erase value at every other. -/
def Memory.ofImage (size : Nat) (image : List Byte) : Memory := Memory.write [] 0 (image.take size)

/-- The fill of R65 on a medium that is there already: bytes past `MEDIUM_SIZE` are dropped, the rest kept. -/
def Memory.refill (m : Memory) (size : Nat) : Memory := m.filter fun c => c.1 < size

/-- The canonical form of a medium of `size` bytes: rising addresses below `size`, no erase value listed. -/
abbrev Memory.wf (m : Memory) (size : Nat) : Prop := m.Sorted ∧ m.Below size ∧ ∀ c ∈ m, c.2 ≠ eraseValue

/-! ### The buffers -/

/-- The value of a buffer byte, if it has one (R33). -/
def Memory.bufByte (m : Memory) (i : Nat) : Option Byte := m.lookup i

/-- The buffer bytes `[lo, lo + n)`, read in ascending order; the first unwritten index where one is (R33).
DEDUCED (notes/assumptions/5.md), unsafe: the rule does not say which index is reported when several are unwritten. -/
def Memory.bufSlice (m : Memory) : (lo n : Nat) → Except Nat (List Byte)
  | _, 0 => .ok []
  | lo, n + 1 =>
    match m.bufByte lo with
    | none => .error lo
    | some b =>
      match m.bufSlice (lo + 1) n with
      | .error i => .error i
      | .ok bs => .ok (b :: bs)

/-- The buffer with `bs` at `[lo, lo + len bs)`: every byte written gets a value (R33). -/
def Memory.bufWrite (m : Memory) (lo : Nat) (bs : List Byte) : Memory :=
  m.replace lo bs.length (Memory.cellsAt lo bs)

/-- The canonical form of a buffer of `size` bytes: rising indexes below `size`. -/
abbrev Memory.bufWf (m : Memory) (size : Nat) : Prop := m.Sorted ∧ m.Below size

end Sys2Proof.Machine
end

