-- ==== Sys2Proof/Machine/Port.lean ====
section
/-! DEFINITION. The types of the host port (20_memory.md rules R66 to R71; 30_encoding.md rule R112) and of the
two agents' moves (60_exceptions.md rule R276). -/

namespace Sys2Proof.Machine

/-- The two buffers (10_state.md rules R31, R32). -/
inductive BufferName where
  | dbuf
  | obuf
  deriving DecidableEq, Repr

/-- The read-only geometry registers, offsets 0x40 to 0x64 (10_state.md rule R22). -/
inductive GeoReg where
  | planeNum
  | oobSize
  | oobFree
  | pageDataSize
  | pagesPerBlock
  | blockStart
  | blockEnd
  | blockTotal
  | blocksInDevice
  | eccSize
  deriving DecidableEq, Repr

/-- The registers of the register block (10_state.md rule R30); every other offset is reserved (R29). -/
inductive HostReg where
  | cmd
  | status
  | arg0
  | arg1
  | oobLen
  | result
  | geo (r : GeoReg)
  | reserved
  deriving DecidableEq, Repr

/-- The widths a bus access can have (R69, R70). -/
inductive Width where
  | w8
  | w16
  | w32
  | w64
  deriving DecidableEq, Repr

/-- One host access, of any width the bus can ask for (R69, R70). `read32`, `write32`, `read8` and `write8` are the
transactions `R32`, `W32`, `R8` and `W8` of R112; the block answers the other widths with a bus error.
DEDUCED (notes/assumptions/14.md), safe. -/
inductive Access where
  | read8 (a : Word)
  | write8 (a : Word) (v : Byte)
  | read16 (a : Word)
  | write16 (a : Word) (v : BitVec 16)
  | read32 (a : Word)
  | write32 (a : Word) (v : Word)
  | read64 (a : Word)
  | write64 (a : Word) (v : BitVec 64)
  deriving DecidableEq, Repr

/-- What the host got from its last transaction. The host agent's own state, not the block's.
DESIGN CHOICE (notes/assumptions/11.md), safe. -/
inductive Response where
  /-- No transaction yet. -/
  | silent
  /-- The value of a 32-bit read. -/
  | word (v : Word)
  /-- The value of an 8-bit read. -/
  | byte (v : Byte)
  /-- A write was taken (or ignored, R29). -/
  | ack
  /-- A bus error (R70). -/
  | busError
  /-- A model fault gave the access no value (R33, R293). -/
  | noValue
  deriving DecidableEq, Repr

/-- The moves of the two agents (R276): the host's accesses, its `POLL` (R112) and its reset (70 rule R290), and the
block's `Run` (70 rule R291). `State.pending` lists them in the order they are made. -/
inductive Move where
  /-- The host makes one access. -/
  | access (a : Access)
  /-- The host repeats `R32 0x04` until `BUSY` reads 0. -/
  | poll
  /-- The host resets the block, or power is lost and comes back. -/
  | reset
  /-- It is the block's turn: `Run`, enabled when `busy = 1`. -/
  | run
  deriving DecidableEq, Repr

/-- `STATUS.CODE` (30_encoding.md rule R104). Codes 5 to 15 are never written and need no representation (93 U11). -/
inductive StatusCode where
  | ok
  | ioError
  | eccMismatch
  | invalidMove
  | badCommand
  deriving DecidableEq, Repr

end Sys2Proof.Machine
end

