-- ==== Sys2Proof/Machine/State.lean ====
section
/-! DEFINITION. The state of the block (10_state.md rule R20) and of the host agent that drives it, the model's
faults (60_exceptions.md rules R264 to R266), and the state right after the first reset (70_reset_and_hazards.md
rule R290). -/

namespace Sys2Proof.Machine

/-- The reasons of the model's sticky fault mark (R37, R264 to R267). A step that raises one still answers a NEXT
state, with the mark set (R267, R291): no step stops with `Host.Outcome.fault`.
DEDUCED (notes/assumptions/12.md), safe. -/
inductive Fault where
  /-- Raised by a host access that R70 answers with a bus error (R264). Safe: the mark says that nothing after it is
  a claim about the hardware. -/
  | busError (addr : Word) (width : Width) (isWrite : Bool)
  /-- Raised by the host's read of an unwritten buffer byte and by WRITE_PAGE, ECC_CODEWORD, ECC_PAGE and ECC_VERIFY
  when they read one (R265). Safe: the byte gets no value. -/
  | uninitialisedBuffer (buffer : BufferName) (index : Nat)
  /-- Raised by a host access other than a read of `STATUS` or of a geometry register while busy (R266, R293). Safe: the
  access has no other effect.
  Raised too by the same accesses of an idle block before the host has read `STATUS` with `BUSY = 0` after its `CMD`
  write, and by a write of `CMD` that starts a command whose operand registers the host has not written (R294); these
  accesses have the effect that the idle block gives them (R71, R292).
  DEDUCED (notes/assumptions/18.md, 20.md), safe. -/
  | hostProtocolViolation (access : Access)
  deriving DecidableEq, Repr

/-- The refusals of a step. -/
inductive Refusal where
  /-- Raised by an arm of `exec` whose command has no meaning yet; no arm is one now. Safe. -/
  | notModelled (mnemonic : String)
  deriving DecidableEq, Repr

/-- The command latched by the `CMD` write (R35): the word and its operand registers. -/
structure Latched where
  cmd : Word
  arg0 : Word
  arg1 : Word
  oobLen : Word
  deriving DecidableEq, Repr

/-- Which operand registers the host has written since the last reset (R294; 70 rule R295, step 3). -/
structure OperandsWritten where
  arg0 : Bool
  arg1 : Bool
  oobLen : Bool
  deriving DecidableEq, Repr

/-- No operand register is written: so it is after every reset (R295). -/
def OperandsWritten.none : OperandsWritten := ⟨false, false, false⟩

/-- The state (R20). `STATUS` is the view `State.status` of `latched` and `code`: `BUSY` is 1 exactly while a command
is latched (R35). The geometry registers (R22) are views of `cfg`. The internal OOB buffer (R36) is a local value of
the commands that use it. -/
structure State where
  /-- The geometry, fixed before reset and never changed (R20 item 1). -/
  cfg : Geometry
  /-- `CMD` (R23). -/
  cmd : Word
  /-- `STATUS.CODE` (R26, R38). -/
  code : StatusCode
  /-- `ARG0` (R24). -/
  arg0 : Word
  /-- `ARG1` (R25). -/
  arg1 : Word
  /-- `OOB_LEN` (R27). -/
  oobLen : Word
  /-- `RESULT` (R28). -/
  result : Word
  /-- `DBUF` (R31): an unlisted index is unwritten (R33). -/
  dbuf : Memory
  /-- `OBUF` (R32): an unlisted index is unwritten (R33). -/
  obuf : Memory
  /-- The medium (R34): an unlisted address reads the erase value. -/
  medium : Memory
  /-- The latched command, and with it the busy flag (R35). -/
  latched : Option Latched
  /-- The sticky fault mark (R37). Model-only. -/
  faultMark : Option Fault
  /-- How many free bytes interrupted commands have taken (R297). The model's own.
  DESIGN CHOICE (notes/assumptions/3.md), safe. -/
  freeCount : Nat
  /-- The moves still to be made, oldest first (R276, R112). The model's own: what the host does, and when the block
  takes its turn. DESIGN CHOICE (notes/assumptions/9.md), safe. -/
  pending : List Move
  /-- What the host's last transaction gave back (R112). The host agent's own.
  DESIGN CHOICE (notes/assumptions/11.md), safe. -/
  response : Response
  /-- Whether the host's duty on completion is open: it has written `CMD` and not read `STATUS` with `BUSY = 0` since
  (R294). Model-only, like the fault mark. DEDUCED (notes/assumptions/18.md), safe. -/
  statusOwed : Bool
  /-- Which operand registers the host has written since the last reset: its duty before a `CMD` write (R294).
  Model-only, like the fault mark. DEDUCED (notes/assumptions/20.md), safe. -/
  written : OperandsWritten
  deriving DecidableEq, Repr

/-- A block of geometry `g` right after its first reset, with `INITIAL_IMAGE = image` (R290, R65). -/
def State.resetOf (g : Geometry) (image : List Byte) : State :=
  { cfg := g, cmd := 0, code := .ok, arg0 := 0, arg1 := 0, oobLen := 0, result := 0
    dbuf := [], obuf := [], medium := Memory.ofImage g.mediumSize image
    latched := none, faultMark := none, freeCount := 0, pending := [], response := .silent
    statusOwed := false, written := .none }

/-- The block right after its first reset: R290's table, at the parameters of Config.lean. -/
def State.reset : State := State.resetOf Config.geometry Config.initialImage

end Sys2Proof.Machine
end

