-- ==== Sys2Proof/Machine/Flags.lean ====
section
/-! DEFINITION. The block's only condition code and flag: `STATUS` (10_state.md rules R26, R38; 30_encoding.md rules
R104, R105). There is no carry and no other flag (R38). -/

namespace Sys2Proof.Machine

/-- The value of a status code (R104). -/
def StatusCode.value : StatusCode → BitVec 4
  | .ok => 0
  | .ioError => 1
  | .eccMismatch => 2
  | .invalidMove => 3
  | .badCommand => 4

/-- `STATUS.BUSY`: a command is latched (R26, R35). -/
def State.busy (s : State) : Bool := s.latched.isSome

/-- The word the host reads from `STATUS`: `{BUSY, 27'b0, CODE}` (R105). -/
def State.status (s : State) : Word := BitVec.ofBool s.busy ++ (0 : BitVec 27) ++ s.code.value

/-- `complete(code)` (R13, R26): `CODE <- code` and `BUSY <- 0` in one step. The latch is then free (R35).
DEDUCED (notes/assumptions/6.md), safe: no rule reads the latched command of a command that has ended. -/
def State.complete (s : State) (c : StatusCode) : State := { s with code := c, latched := none }

end Sys2Proof.Machine
end

