-- ==== Sys2Proof/Machine/Translator.lean ====
section
/-! DEFINITION. The address translator (41_translator.md rules R180 to R186): combinational, no state. -/

namespace Sys2Proof

/-- `translate(lp)` (R180, R181): the physical page and block of a logical page, or `none` for `OutOfRange`. -/
def Geometry.translate (g : Geometry) (lp : Nat) : Option (Nat × Nat) :=
  let pp := lp + g.blockStart * g.pagesPerBlock
  let pb := pp / g.pagesPerBlock
  if pb ≥ g.blockEnd then none else some (pp, pb)

/-- `plane_ok(fp, tp)` (R185): the two pages' blocks are in the same plane group. -/
def Geometry.planeAligned (g : Geometry) (fp tp : Nat) : Bool :=
  if g.planeNum = 1 then true
  else
    let mask := g.planeNum - 1
    decide ((g.blockOf fp &&& mask) = (g.blockOf tp &&& mask))

end Sys2Proof
end

