-- ==== Sys2Proof/Machine/Ops.lean ====
section
/-! DEFINITION. The shared operations over registers, buffers and medium, and how a command ends early. The block has
no trap entry and no trap return (60_exceptions.md rules R269, R270): an error is a status code, and a model fault sets
the sticky mark. -/

namespace Sys2Proof.Machine

/-! ### The fault mark -/

/-- `raise <Fault>(info)` (R13, R267): the mark records the first fault; a later one does not replace it. -/
def State.raise (s : State) (f : Fault) : State := { s with faultMark := some (s.faultMark.getD f) }

/-- A fault inside a command's step (R265, R291): the mark is set, nothing else changes, `BUSY <- 0`, and `CODE` keeps
its value. -/
def State.abort (s : State) (f : Fault) : State := { s.raise f with latched := none }

/-- Why a command ends before it has its effect: a check gave a status, or a read raised a model fault. -/
inductive Stop where
  | status (c : StatusCode)
  | fault (f : Fault)
  deriving DecidableEq, Repr

/-- The end of a command that stops early: it changes nothing but `STATUS` (R210), or the mark (R291). -/
def State.stopWith (s : State) : Stop → State
  | .status c => s.complete c
  | .fault f => s.abort f

/-- A word that is no legal command: it completes `BAD_COMMAND` and does nothing else (R106, R107). -/
def State.rejectCommand (s : State) : State := s.complete .badCommand

/-! ### The two agents' moves -/

/-- The moves still to be made become `rest` (60 rule R276). -/
def State.setPending (s : State) (rest : List Move) : State := { s with pending := rest }

/-- The host's last response becomes `r`. -/
def State.respond (s : State) (r : Response) : State := { s with response := r }

/-- What the host's read of a register settles: a read of `STATUS` with `BUSY = 0` does the duty that its `CMD` write
opened (70 rule R294). The block keeps no trace of a read (R71). -/
def State.settle (s : State) : HostReg → State
  | .status => { s with statusOwed := s.statusOwed && s.busy }
  | .cmd | .arg0 | .arg1 | .oobLen | .result | .geo _ | .reserved => s

/-! ### Registers -/

/-- `reg[RESULT] <- v` (R28). -/
def State.setResult (s : State) (v : Word) : State := { s with result := v }

/-- The exact value behind a geometry register (R22). -/
def GeoReg.value (g : Geometry) : GeoReg → Nat
  | .planeNum => g.planeNum
  | .oobSize => g.oobSize
  | .oobFree => g.oobFree
  | .pageDataSize => g.pageDataSize
  | .pagesPerBlock => g.pagesPerBlock
  | .blockStart => g.blockStart
  | .blockEnd => g.blockEnd
  | .blockTotal => g.blockTotal
  | .blocksInDevice => g.blocksInDevice
  | .eccSize => g.eccSize

/-- A geometry value as a register reads it: zero-extended to 32 bits (R22). A value that does not fit has a free
reading (notes/assumptions/4.md). -/
def geometryWord (v : Nat) : Word := if v < 2 ^ 32 then BitVec.ofNat 32 v else Config.wideGeometryValue v

/-- A host read of a register (R71, R29, R30): no side effect. -/
def State.readReg (s : State) : HostReg → Word
  | .cmd => s.cmd
  | .status => s.status
  | .arg0 => s.arg0
  | .arg1 => s.arg1
  | .oobLen => s.oobLen
  | .result => s.result
  | .geo r => geometryWord (r.value s.cfg)
  | .reserved => 0

/-- A host write of `CMD` while idle (R23, R35, R292): the whole word is stored, the command and its operands are
latched, and `BUSY` becomes 1; `CODE` keeps the previous command's code. It opens the host's duty to read `STATUS`
(70 rule R294). -/
def State.startCommand (s : State) (w : Word) : State :=
  { s with cmd := w, latched := some ⟨w, s.arg0, s.arg1, s.oobLen⟩, statusOwed := true }

/-- A host write of a register (R71, R29). Of an operand register it also does the duty to write it (70 rule R294). -/
def State.writeReg (s : State) (v : Word) : HostReg → State
  | .cmd => s.startCommand v
  | .arg0 => { s with arg0 := v, written := { s.written with arg0 := true } }
  | .arg1 => { s with arg1 := v, written := { s.written with arg1 := true } }
  | .oobLen => { s with oobLen := v, written := { s.written with oobLen := true } }
  | .status => s
  | .result => s
  | .geo _ => s
  | .reserved => s

/-! ### Buffers -/

/-- A buffer by its name. -/
def State.buffer (s : State) : BufferName → Memory
  | .dbuf => s.dbuf
  | .obuf => s.obuf

/-- The size of a buffer (R31, R32). -/
def BufferName.size (g : Geometry) : BufferName → Nat
  | .dbuf => g.pageDataSize
  | .obuf => g.oobSize

/-- The buffer bytes `[lo, lo + n)` as a command reads them, or the fault of reading an unwritten one (R33, R265). -/
def State.bufSlice (s : State) (b : BufferName) (lo n : Nat) : Except Stop (List Byte) :=
  match (s.buffer b).bufSlice lo n with
  | .error i => .error (.fault (.uninitialisedBuffer b i))
  | .ok bs => .ok bs

/-- The buffer with `bs` written at `[lo, lo + len bs)` (R33). -/
def State.bufWrite (s : State) (b : BufferName) (lo : Nat) (bs : List Byte) : State :=
  { s with
    dbuf := match b with
      | .dbuf => s.dbuf.bufWrite lo bs
      | .obuf => s.dbuf
    obuf := match b with
      | .dbuf => s.obuf
      | .obuf => s.obuf.bufWrite lo bs }

/-! ### Medium -/

/-- `MemRead(addr, n)` (R13). -/
def State.memRead (s : State) (base n : Nat) : List Byte := s.medium.readBytes base n

/-- `MemWrite(addr, n, v)` (R13, R63). -/
def State.memWrite (s : State) (base : Nat) (bs : List Byte) : State := { s with medium := s.medium.write base bs }

end Sys2Proof.Machine
end

