-- ==== Sys2Proof/Machine/Operands.lean ====
section
/-! DEFINITION. The operands of the commands (30_encoding.md rule R109): whole 32-bit registers read as unsigned
numbers, and ranges of the two buffers. There is no other operand form. -/

namespace Sys2Proof

/-- Whether a command reads `ARG0` (R109). -/
def Instr.readsArg0 : Instr → Bool
  | .readPage _ _ | .writePage _ | .movePage | .eraseBlock | .eccCodeword | .translate | .planeCheck => true
  | .readId | .eraseWindow | .eccPage | .eccVerify => false

/-- Whether a command reads `ARG1` (R109). -/
def Instr.readsArg1 : Instr → Bool
  | .movePage | .planeCheck => true
  | .readId | .readPage _ _ | .writePage _ | .eraseBlock | .eraseWindow | .eccCodeword | .eccPage | .eccVerify
  | .translate => false

/-- Whether a command reads `OOB_LEN`: READ_PAGE with `O = 1` (R109). -/
def Instr.readsOobLen : Instr → Bool
  | .readPage _ o => o
  | .readId | .writePage _ | .movePage | .eraseBlock | .eraseWindow | .eccCodeword | .eccPage | .eccVerify
  | .translate | .planeCheck => false

namespace Machine

/-- Whether the command word `w` starts a command that reads an operand register the host has not written since the last
reset (R109; 70 rule R294). A word that is no command reads none. -/
def State.operandsOwed (s : State) (w : Word) : Bool :=
  match decodeCommand w with
  | .error _ => false
  | .ok i =>
    (i.readsArg0 && !s.written.arg0) || (i.readsArg1 && !s.written.arg1) || (i.readsOobLen && !s.written.oobLen)

/-- The operand registers of the running command: those latched, "which equal the registers" (R35, R301). With no
command latched they are the registers.
DESIGN CHOICE (notes/assumptions/13.md), safe. -/
def State.operands (s : State) : Latched := s.latched.getD ⟨s.cmd, s.arg0, s.arg1, s.oobLen⟩

/-- `ARG0` as the command reads it (R24, R109). -/
def State.arg0Value (s : State) : Nat := s.operands.arg0.toNat

/-- `ARG1` as the command reads it (R25, R109). -/
def State.arg1Value (s : State) : Nat := s.operands.arg1.toNat

/-- `OOB_LEN` as the command reads it (R27, R109). -/
def State.oobLenValue (s : State) : Nat := s.operands.oobLen.toNat

/-- `translate` of a logical-page operand; every command that meets `OutOfRange` completes `IO_ERROR` (R14, R181). -/
def State.pageOperand (s : State) (lp : Nat) : Except Stop Nat :=
  match s.cfg.translate lp with
  | none => .error (.status .ioError)
  | some (pp, _) => .ok pp

/-- The payload operand `DBUF[0 .. PAGE_DATA_SIZE)` of WRITE_PAGE, ECC_PAGE and ECC_VERIFY (R109). -/
def State.payloadOperand (s : State) : Except Stop (List Byte) := s.bufSlice .dbuf 0 s.cfg.pageDataSize

/-- The codeword operand `DBUF[256k .. 256k + 256)` of ECC_CODEWORD (R109). -/
def State.codewordOperand (s : State) (k : Nat) : Except Stop (List Byte) := s.bufSlice .dbuf (256 * k) 256

/-- The metadata WRITE_PAGE stores in the free bytes: `OBUF[ECC_SIZE .. OOB_SIZE)` when `O = 1`, else the erase value
(R220, R221). -/
def State.metadataOperand (s : State) (o : Bool) : Except Stop (List Byte) :=
  if o then s.bufSlice .obuf s.cfg.eccSize s.cfg.oobFree else .ok (erased s.cfg.oobFree)

/-- The stored code prefix `OBUF[0 .. ECC_SIZE)` of ECC_VERIFY (R109). -/
def State.prefixOperand (s : State) : Except Stop (List Byte) := s.bufSlice .obuf 0 s.cfg.eccSize

end Machine

end Sys2Proof
end

