-- ==== Sys2Proof/Machine/BlockOps.lean ====
section
/-! DEFINITION. The erase commands ERASE_BLOCK and ERASE_WINDOW (42_page_block_ops.md rules R232 to R240). No buffer
is touched. -/

namespace Sys2Proof.Machine

/-- The medium with physical block `b` erased, payload and OOB bytes of every page (R232, R233). -/
def State.eraseBlockAt (s : State) (b : Nat) : State := s.memWrite (s.cfg.blockBase b) (erased s.cfg.blockSize)

/-- The check of ERASE_BLOCK: a physical block below `BLOCKS_IN_DEVICE`, in the window or not (R232, R233). -/
def State.eraseBlockPlan (s : State) : Except Stop Nat :=
  if s.arg0Value ≥ s.cfg.blocksInDevice then .error (.status .ioError) else .ok s.arg0Value

/-- ERASE_BLOCK (R232). -/
def State.runEraseBlock (s : State) : State :=
  match s.eraseBlockPlan with
  | .error e => s.stopWith e
  | .ok b => (s.eraseBlockAt b).complete .ok

/-- The meaning of ERASE_BLOCK. -/
def execEraseBlock (s : State) : Host.Outcome State Fault Refusal := .next s.runEraseBlock

/-- One block of ERASE_WINDOW's loop: it is erased, or it counts as a failure (R240). -/
def State.eraseOrCount (acc : State × Nat) (b : Nat) : State × Nat :=
  if b ≥ acc.1.cfg.blocksInDevice then (acc.1, acc.2 + 1) else (acc.1.eraseBlockAt b, acc.2)

/-- ERASE_WINDOW's loop over the window's blocks, ascending, with the count of those that failed (R240). -/
def State.eraseWindowLoop (s : State) : State × Nat := s.cfg.windowBlocks.foldl State.eraseOrCount (s, 0)

/-- ERASE_WINDOW (R240): `RESULT` gets the count, on `OK` and on `IO_ERROR` (R28). -/
def State.runEraseWindow (s : State) : State :=
  (s.eraseWindowLoop.1.setResult (BitVec.ofNat 32 s.eraseWindowLoop.2)).complete
    (if s.eraseWindowLoop.2 = 0 then .ok else .ioError)

/-- The meaning of ERASE_WINDOW. -/
def execEraseWindow (s : State) : Host.Outcome State Fault Refusal := .next s.runEraseWindow

end Sys2Proof.Machine
end

