-- ==== Sys2Proof/Machine/Codec.lean ====
section
/-! DEFINITION. The codec's diagnostic commands: ECC_CODEWORD, ECC_PAGE and ECC_VERIFY (40_ecc_codec.md rules R150,
R154, R158). None accesses the medium. -/

namespace Sys2Proof.Machine

/-- The operand of ECC_CODEWORD: the index check, then the bytes (R150). -/
def State.eccCodewordInput (s : State) : Except Stop (List Byte) :=
  if s.arg0Value ≥ s.cfg.codewordsPerPage then .error (.status .badCommand) else s.codewordOperand s.arg0Value

/-- ECC_CODEWORD (R150). -/
def State.runEccCodeword (s : State) : State :=
  match s.eccCodewordInput with
  | .error e => s.stopWith e
  | .ok d => (s.setResult (computeCodeword d).pack).complete .ok

/-- The meaning of ECC_CODEWORD. -/
def execEccCodeword (s : State) : Host.Outcome State Fault Refusal := .next s.runEccCodeword

/-- ECC_PAGE (R154): the page's codes go to `OBUF[0 .. ECC_SIZE)`. -/
def State.runEccPage (s : State) : State :=
  match s.payloadOperand with
  | .error e => s.stopWith e
  | .ok data => (s.bufWrite .obuf 0 (computePageEcc data)).complete .ok

/-- The meaning of ECC_PAGE. -/
def execEccPage (s : State) : Host.Outcome State Fault Refusal := .next s.runEccPage

/-- ECC_VERIFY (R158): the payload is read first, then the stored prefix. -/
def State.runEccVerify (s : State) : State :=
  match s.payloadOperand with
  | .error e => s.stopWith e
  | .ok data =>
    match s.prefixOperand with
    | .error e => s.stopWith e
    | .ok pre => s.complete (if computePageEcc data = pre then .ok else .eccMismatch)

/-- The meaning of ECC_VERIFY. -/
def execEccVerify (s : State) : Host.Outcome State Fault Refusal := .next s.runEccVerify

end Sys2Proof.Machine
end

