-- ==== Sys2Proof/Machine/PageOps.lean ====
section
/-! DEFINITION. READ_ID and the page commands READ_PAGE, WRITE_PAGE and MOVE_PAGE (42_page_block_ops.md rules R210 to
R228). A writing command first makes its checks and reads its operands (its `plan`), then its medium transfers; the
plan also gives the footprint of an interrupted command (70_reset_and_hazards.md rule R297). -/

namespace Sys2Proof.Machine

/-! ### READ_ID -/

/-- READ_ID (R211). -/
def State.runReadId (s : State) : State := (s.setResult (BitVec.ofNat 32 s.cfg.readIdValue)).complete .ok

/-- The meaning of READ_ID. -/
def execReadId (s : State) : Host.Outcome State Fault Refusal := .next s.runReadId

/-! ### READ_PAGE -/

/-- The checks of READ_PAGE, in R210's order: the prefix length when `O = 1` (`BAD_COMMAND`), then the range
(`IO_ERROR`). They give the physical page. -/
def State.readPagePlan (o : Bool) (s : State) : Except Stop Nat :=
  if o ∧ s.oobLenValue > s.cfg.oobSize then .error (.status .badCommand) else s.pageOperand s.arg0Value

/-- The payload of physical page `pp` (R61). -/
def State.pagePayload (s : State) (pp : Nat) : List Byte := s.memRead (s.cfg.pageBase pp) s.cfg.pageDataSize

/-- The OOB region of physical page `pp` (R61), the internal OOB buffer of READ_PAGE (R36). -/
def State.pageOob (s : State) (pp : Nat) : List Byte := s.memRead (s.cfg.oobBase pp) s.cfg.oobSize

/-- READ_PAGE's buffer writes (R214): all of `DBUF` when `D = 1`, `OBUF[0 .. OOB_LEN)` when `O = 1`. -/
def State.loadPage (d o : Bool) (pp : Nat) (s : State) : State :=
  let s1 := if d then s.bufWrite .dbuf 0 (s.pagePayload pp) else s
  if o then s1.bufWrite .obuf 0 ((s.pageOob pp).take s.oobLenValue) else s1

/-- The status of READ_PAGE after its transfers: with `D = 1` the ECC is verified (R152, R214). -/
def State.readPageStatus (d : Bool) (pp : Nat) (s : State) : StatusCode :=
  if d ∧ eccOk s.cfg.eccSize (s.pagePayload pp) (s.pageOob pp) = false then .eccMismatch else .ok

/-- READ_PAGE (R214): on a mismatch the data stays as read (R149). -/
def State.runReadPage (d o : Bool) (s : State) : State :=
  match s.readPagePlan o with
  | .error e => s.stopWith e
  | .ok pp => (s.loadPage d o pp).complete (s.readPageStatus d pp)

/-- The meaning of READ_PAGE. -/
def execReadPage (d o : Bool) (s : State) : Host.Outcome State Fault Refusal := .next (s.runReadPage d o)

/-! ### WRITE_PAGE -/

/-- What WRITE_PAGE stores: where, the payload, and the full OOB buffer. -/
structure PageWrite where
  page : Nat
  payload : List Byte
  oob : List Byte
  deriving DecidableEq, Repr

/-- The checks and operand reads of WRITE_PAGE (R220): the range, then the payload, then the metadata, all before
either transfer. The OOB buffer is the computed codes and then the metadata (R221). -/
def State.writePagePlan (o : Bool) (s : State) : Except Stop PageWrite :=
  match s.pageOperand s.arg0Value with
  | .error e => .error e
  | .ok pp =>
    match s.payloadOperand with
    | .error e => .error e
    | .ok data =>
      match s.metadataOperand o with
      | .error e => .error e
      | .ok metadata => .ok ⟨pp, data, computePageEcc data ++ metadata⟩

/-- WRITE_PAGE (R220): transfer 1 is the payload, transfer 2 the OOB region. -/
def State.runWritePage (o : Bool) (s : State) : State :=
  match s.writePagePlan o with
  | .error e => s.stopWith e
  | .ok w => ((s.memWrite (s.cfg.pageBase w.page) w.payload).memWrite (s.cfg.oobBase w.page) w.oob).complete .ok

/-- The meaning of WRITE_PAGE. -/
def execWritePage (o : Bool) (s : State) : Host.Outcome State Fault Refusal := .next (s.runWritePage o)

/-! ### MOVE_PAGE -/

/-- The checks of MOVE_PAGE (R226): either page out of range is `IO_ERROR`, then the plane check `INVALID_MOVE`. They
give the source and destination physical pages. -/
def State.movePagePlan (s : State) : Except Stop (Nat × Nat) :=
  match s.pageOperand s.arg0Value with
  | .error e => .error e
  | .ok fp =>
    match s.pageOperand s.arg1Value with
    | .error e => .error e
    | .ok tp => if s.cfg.planeAligned fp tp then .ok (fp, tp) else .error (.status .invalidMove)

/-- MOVE_PAGE (R226, R227): the whole Page Record is copied, its ECC neither checked nor recomputed. -/
def State.runMovePage (s : State) : State :=
  match s.movePagePlan with
  | .error e => s.stopWith e
  | .ok (fp, tp) => (s.memWrite (s.cfg.pageBase tp) (s.memRead (s.cfg.pageBase fp) s.cfg.pageSize)).complete .ok

/-- The meaning of MOVE_PAGE. -/
def execMovePage (s : State) : Host.Outcome State Fault Refusal := .next s.runMovePage

end Sys2Proof.Machine
end

