-- ==== Sys2Proof/Machine/Translation.lean ====
section
/-! DEFINITION. The translator's diagnostic commands: TRANSLATE and PLANE_CHECK (41_translator.md rules R188, R190).
Neither accesses the medium or a buffer. -/

namespace Sys2Proof.Machine

/-- TRANSLATE (R188): the physical page, which fits 32 bits by R182. -/
def State.runTranslate (s : State) : State :=
  match s.pageOperand s.arg0Value with
  | .error e => s.stopWith e
  | .ok pp => (s.setResult (BitVec.ofNat 32 pp)).complete .ok

/-- The meaning of TRANSLATE. -/
def execTranslate (s : State) : Host.Outcome State Fault Refusal := .next s.runTranslate

/-- PLANE_CHECK (R190): the operands are physical pages, with no range check. -/
def State.runPlaneCheck (s : State) : State :=
  s.complete (if s.cfg.planeAligned s.arg0Value s.arg1Value then .ok else .invalidMove)

/-- The meaning of PLANE_CHECK. -/
def execPlaneCheck (s : State) : Host.Outcome State Fault Refusal := .next s.runPlaneCheck

end Sys2Proof.Machine
end

