-- ==== Sys2Proof/Machine/Dispatch.lean ====
section
/-! DEFINITION. The meaning of every command (30_encoding.md rule R101), one arm per constructor of `Instr`. -/

namespace Sys2Proof.Machine

def exec (i : Instr) (s : State) : Host.Outcome State Fault Refusal :=
  match i with
  | .readId => Sys2Proof.Machine.execReadId s
  | .readPage d o => Sys2Proof.Machine.execReadPage d o s
  | .writePage o => Sys2Proof.Machine.execWritePage o s
  | .movePage => Sys2Proof.Machine.execMovePage s
  | .eraseBlock => Sys2Proof.Machine.execEraseBlock s
  | .eraseWindow => Sys2Proof.Machine.execEraseWindow s
  | .eccCodeword => Sys2Proof.Machine.execEccCodeword s
  | .eccPage => Sys2Proof.Machine.execEccPage s
  | .eccVerify => Sys2Proof.Machine.execEccVerify s
  | .translate => Sys2Proof.Machine.execTranslate s
  | .planeCheck => Sys2Proof.Machine.execPlaneCheck s

end Sys2Proof.Machine
end

