-- ==== Sys2Proof/Machine/HostPort.lean ====
section
/-! DEFINITION. The host port: the address map (20_memory.md rules R66 to R70), the accesses (R71), and the busy
protocol with the host's duties at the start and on completion (70_reset_and_hazards.md rules R293, R294). -/

namespace Sys2Proof.Machine

/-- The register at an offset of the register block (10_state.md rules R22 to R30). -/
def HostReg.ofOffset (r : Nat) : HostReg :=
  match r with
  | 0x00 => .cmd
  | 0x04 => .status
  | 0x08 => .arg0
  | 0x0C => .arg1
  | 0x10 => .oobLen
  | 0x14 => .result
  | 0x40 => .geo .planeNum
  | 0x44 => .geo .oobSize
  | 0x48 => .geo .oobFree
  | 0x4C => .geo .pageDataSize
  | 0x50 => .geo .pagesPerBlock
  | 0x54 => .geo .blockStart
  | 0x58 => .geo .blockEnd
  | 0x5C => .geo .blockTotal
  | 0x60 => .geo .blocksInDevice
  | 0x64 => .geo .eccSize
  | _ => .reserved

/-- Where the buffer windows begin (R66): `DATA` and `OOB` of R112. -/
def dbufWindow : Nat := 0x10000000

@[inherit_doc dbufWindow] def obufWindow : Nat := 0x20000000

/-- The register a 32-bit access reaches: a multiple of 4 inside the register block (R66, R69). -/
def regAt (a : Word) : Option HostReg :=
  if a.toNat < 0x100 ∧ a.toNat % 4 = 0 then some (HostReg.ofOffset a.toNat) else none

/-- The buffer byte an 8-bit access reaches (R66, R67). -/
def bufByteAt (g : Geometry) (a : Word) : Option (BufferName × Nat) :=
  if dbufWindow ≤ a.toNat ∧ a.toNat < dbufWindow + g.pageDataSize then some (.dbuf, a.toNat - dbufWindow)
  else if obufWindow ≤ a.toNat ∧ a.toNat < obufWindow + g.oobSize then some (.obuf, a.toNat - obufWindow)
  else none

/-- What an access that is no bus error does (R71). -/
inductive PortOp where
  | readReg (r : HostReg)
  | writeReg (r : HostReg) (v : Word)
  | readBuf (b : BufferName) (i : Nat)
  | writeBuf (b : BufferName) (i : Nat) (v : Byte)
  deriving DecidableEq, Repr

/-- The host address of an access. -/
def Access.addr : Access → Word
  | .read8 a | .write8 a _ | .read16 a | .write16 a _ | .read32 a | .write32 a _ | .read64 a | .write64 a _ => a

/-- The width of an access. -/
def Access.width : Access → Width
  | .read8 _ | .write8 _ _ => .w8
  | .read16 _ | .write16 _ _ => .w16
  | .read32 _ | .write32 _ _ => .w32
  | .read64 _ | .write64 _ _ => .w64

/-- Whether an access writes. -/
def Access.isWrite : Access → Bool
  | .read8 _ | .read16 _ | .read32 _ | .read64 _ => false
  | .write8 _ _ | .write16 _ _ | .write32 _ _ | .write64 _ _ => true

/-- What an access does, or `none` where R70 answers it with a bus error: a register takes only aligned 32-bit
accesses, a buffer byte only 8-bit ones, and nothing else is mapped (R69). -/
def Access.portOp? (g : Geometry) : Access → Option PortOp
  | .read32 a => (regAt a).map .readReg
  | .write32 a v => (regAt a).map (.writeReg · v)
  | .read8 a => (bufByteAt g a).map fun t => .readBuf t.1 t.2
  | .write8 a v => (bufByteAt g a).map fun t => .writeBuf t.1 t.2 v
  | .read16 _ => none
  | .write16 _ _ => none
  | .read64 _ => none
  | .write64 _ _ => none

/-- The accesses the host may make while busy: reads of `STATUS` and of the geometry registers (R293, R294). The host
knows that the command has ended only from `STATUS`, so they stay allowed until it has read it
(notes/assumptions/18.md). -/
def PortOp.allowedWhileBusy : PortOp → Bool
  | .readReg .status => true
  | .readReg (.geo _) => true
  | .readReg .cmd | .readReg .arg0 | .readReg .arg1 | .readReg .oobLen | .readReg .result | .readReg .reserved => false
  | .writeReg _ _ => false
  | .readBuf _ _ => false
  | .writeBuf _ _ _ => false

/-- The host's duty on completion: `STATUS` is read with `BUSY = 0` before any other access after the `CMD` write (R294).
A host that breaks it gets the mark; the access itself goes on (R71).
DEDUCED (notes/assumptions/18.md), safe. -/
def State.checkCompletion (s : State) (a : Access) (op : PortOp) : State :=
  if s.statusOwed && !op.allowedWhileBusy then s.raise (.hostProtocolViolation a) else s

/-- The host's duty before a `CMD` write: every operand register the command reads must be written (R294). A host that
breaks it gets the mark; the write itself goes on (R292).
DEDUCED (notes/assumptions/20.md), safe. -/
def State.checkStart (s : State) (v : Word) : HostReg → State
  | .cmd => if s.operandsOwed v then s.raise (.hostProtocolViolation (.write32 0x00 v)) else s
  | .status | .arg0 | .arg1 | .oobLen | .result | .geo _ | .reserved => s

/-- A host access that the port takes (R71). Only the write of `CMD` has a side effect on the block. -/
def State.portAccess (s : State) : PortOp → State
  | .readReg r => (s.settle r).respond (.word (s.readReg r))
  | .writeReg r v => ((s.checkStart v r).writeReg v r).respond .ack
  | .readBuf b i =>
    match (s.buffer b).bufByte i with
    | none => (s.raise (.uninitialisedBuffer b i)).respond .noValue
    | some v => s.respond (.byte v)
  | .writeBuf b i v => (s.bufWrite b i [v]).respond .ack

/-- One host access (R70, R71, R293, R294): a bus error first, busy or not; then the busy protocol; then the duty on
completion, and the access. -/
def State.hostAccess (s : State) (a : Access) : State :=
  match a.portOp? s.cfg with
  | none => (s.raise (.busError a.addr a.width a.isWrite)).respond .busError
  | some op =>
    if s.busy && !op.allowedWhileBusy then (s.raise (.hostProtocolViolation a)).respond .noValue
    else (s.checkCompletion a op).portAccess op

/-- The read of `STATUS` that a `POLL` repeats (R112). -/
def Access.readStatus : Access := .read32 0x04

/-- One round of a `POLL` whose later moves are `rest` (R112): `STATUS` is read; while it reads `BUSY = 1` the block
takes its turn and the `POLL` goes on, which is the weak fairness of 70_reset_and_hazards.md rule R302.
DESIGN CHOICE (notes/assumptions/7.md), safe: the number of reads before the `Run` is not fixed by the spec, and no
rule depends on it. -/
def State.pollOnce (s : State) (rest : List Move) : State :=
  (s.hostAccess Access.readStatus).setPending (if s.busy then .run :: .poll :: rest else rest)

end Sys2Proof.Machine
end

