-- ==== Sys2Proof/Machine/Reset.lean ====
section
/-! DEFINITION. The host's reset and what an interrupted command leaves (70_reset_and_hazards.md rules R290, R297 to
R299; 20_memory.md rule R65). -/

namespace Sys2Proof.Machine

/-- A range of the medium: its base address and its length. -/
abbrev Range := Nat × Nat

/-- The footprint of a command run from this state (R297): the medium ranges its rule would write. A command whose
checks fail, or that faults before its first medium write, has none. -/
def State.footprintOf (s : State) : Instr → List Range
  | .writePage o =>
    match s.writePagePlan o with
    | .error _ => []
    | .ok w => [(s.cfg.pageBase w.page, s.cfg.pageSize)]
  | .movePage =>
    match s.movePagePlan with
    | .error _ => []
    | .ok (_, tp) => [(s.cfg.pageBase tp, s.cfg.pageSize)]
  | .eraseBlock =>
    match s.eraseBlockPlan with
    | .error _ => []
    | .ok b => [(s.cfg.blockBase b, s.cfg.blockSize)]
  | .eraseWindow => s.cfg.windowBlocks.map fun b => (s.cfg.blockBase b, s.cfg.blockSize)
  | .readId => []
  | .readPage _ _ => []
  | .eccCodeword => []
  | .eccPage => []
  | .eccVerify => []
  | .translate => []
  | .planeCheck => []

/-- The footprint of the command that is running; none when the block is idle or the word is no command (R297). -/
def State.footprint (s : State) : List Range :=
  match s.latched with
  | none => []
  | some l =>
    match decodeCommand l.cmd with
    | .error _ => []
    | .ok i => s.footprintOf i

/-- `n` free bytes, from count `k` on (R297, notes/assumptions/3.md). -/
def freeBytes (k n : Nat) : List Byte := (List.range n).map fun j => Config.freeByte (k + j)

/-- Every byte of a range takes any value (R297). -/
def State.scramble (s : State) (r : Range) : State :=
  { s.memWrite r.1 (freeBytes s.freeCount r.2) with freeCount := s.freeCount + r.2 }

/-- The medium after an interruption: the footprint takes any values, every other byte is kept (R297). -/
def State.interrupt (s : State) : State := s.footprint.foldl State.scramble s

/-- The table of R290 for a reset after the first: registers 0, buffers unwritten, nothing latched; the medium kept
and filled (R65); the geometry and the fault mark unchanged. No command is left whose `STATUS` the host must read
(R294: "reset at any time"), and the operand registers are to be written anew (R295, step 3). -/
def State.resetFields (s : State) : State :=
  { s with
    cmd := 0, code := .ok, arg0 := 0, arg1 := 0, oobLen := 0, result := 0, dbuf := [], obuf := []
    medium := s.medium.refill s.cfg.mediumSize, latched := none, statusOwed := false
    written := .none }

/-- The host resets the block, idle or busy (R290): an interrupted command's footprint first takes any values (R297). -/
def State.hostReset (s : State) : State := s.interrupt.resetFields

end Sys2Proof.Machine
end

