-- ==== Sys2Proof/Machine/Turn.lean ====
section
/-! DEFINITION. The moves of the two agents (60_exceptions.md rule R276; 70_reset_and_hazards.md rules R290 to R296):
the block's `Run`, the next pending move, and a command placed for the next step. -/

namespace Sys2Proof.Machine

/-- The block's move `Run`, enabled when `busy = 1` (R291): it decodes the latched word and runs the command to its
end. With no command latched the block has no move and the state stays (R296).
DESIGN CHOICE (notes/assumptions/8.md), safe: an idle block does nothing. -/
def State.run (s : State) : Host.Outcome State Fault Refusal :=
  match s.latched with
  | none => .next s
  | some l =>
    match decodeCommand l.cmd with
    | .error _ => .next s.rejectCommand
    | .ok i => exec i s

/-- The oldest pending move is made; with none pending the block takes its turn (R276, R291).
DESIGN CHOICE (notes/assumptions/9.md), safe: which agent moves next is plain data, and every order of moves the spec
allows is some list. -/
def State.nextMove (s : State) : Host.Outcome State Fault Refusal :=
  match s.pending with
  | [] => s.run
  | .access a :: rest => .next ((s.setPending rest).hostAccess a)
  | .poll :: rest => .next (s.pollOnce rest)
  | .reset :: rest => .next (s.setPending rest).hostReset
  | .run :: rest => (s.setPending rest).run

/-- The command word `w` latched as the host's `CMD` write latches it (R35, R292), and the block's turn next: what
`W32 0x00, w` leaves, for a host that has done its duties (R294). DESIGN CHOICE (notes/assumptions/10.md), safe. -/
def State.placeCommand (s : State) (w : Word) : State := (s.startCommand w).setPending (.run :: s.pending)

end Sys2Proof.Machine
end

