-- ==== Sys2Proof/Machine/Step.lean ====
section
/-! DEFINITION. One step of the machine (60_exceptions.md rule R276), and the placing of a command word that the next
step runs. -/

namespace Sys2Proof.Machine

/-- One step: the next move of the two agents. -/
def step (s : State) : Host.Outcome State Fault Refusal := s.nextMove

/-- `s` with the command word of an opcode-table row placed so that the next step runs it (notes/assumptions/10.md). -/
def State.withFetchWord (s : State) (nbits w : Nat) : State := s.placeCommand (tableWord nbits w)

end Sys2Proof.Machine
end

