-- ==== Sys2Proof/Machine/Program.lean ====
section
/-! DEFINITION. Host programs as lists of moves (30_encoding.md rules R110 to R112): the written form of a command,
and the transactions it stands for. -/

namespace Sys2Proof

/-- The suffixes of a flagged command (R110). -/
def flagSuffix (d o : Bool) : String := (if d then ".D" else "") ++ (if o then ".O" else "")

/-- A command's mnemonic with its suffixes (R108, R110). -/
def Instr.spelling : Instr → String
  | .readId => "READ_ID"
  | .readPage d o => "READ_PAGE" ++ flagSuffix d o
  | .writePage o => "WRITE_PAGE" ++ flagSuffix true o
  | .movePage => "MOVE_PAGE"
  | .eraseBlock => "ERASE_BLOCK"
  | .eraseWindow => "ERASE_WINDOW"
  | .eccCodeword => "ECC_CODEWORD"
  | .eccPage => "ECC_PAGE"
  | .eccVerify => "ECC_VERIFY"
  | .translate => "TRANSLATE"
  | .planeCheck => "PLANE_CHECK"

/-- The operands a command is written with, in the order `ARG0`, `ARG1`, `OOB_LEN` (R110). -/
def Instr.operandList (i : Instr) (a0 a1 n : Word) : List Word :=
  (if i.readsArg0 then [a0] else []) ++ (if i.readsArg1 then [a1] else []) ++ (if i.readsOobLen then [n] else [])

/-- The written form of a command, its operands in decimal (R110). -/
def Instr.assembly (i : Instr) (a0 a1 n : Word) : String :=
  match (i.operandList a0 a1 n).map fun v => toString v.toNat with
  | [] => i.spelling
  | ops => i.spelling ++ " " ++ ", ".intercalate ops

namespace Machine

/-- `W32 a, v` (R112). -/
def Move.w32 (a v : Word) : Move := .access (.write32 a v)

/-- `R32 a` (R112). -/
def Move.r32 (a : Word) : Move := .access (.read32 a)

/-- `W8 a, v` (R112). -/
def Move.w8 (a : Word) (v : Byte) : Move := .access (.write8 a v)

/-- `R8 a` (R112). -/
def Move.r8 (a : Word) : Move := .access (.read8 a)

/-- `FILL8 a, n, f(i)` (R112): `W8 a+i, f(i)` for `i` from 0 to `n - 1`, ascending. Past `0xFFFFFFFF` the address
`a+i` has no meaning in the spec, which has 32-bit host addresses (R66) and no wrapping sum (R10); the model wraps it.
DESIGN CHOICE (notes/assumptions/19.md), unsafe. -/
def Move.fill8 (a : Word) (n : Nat) (f : Nat → Byte) : List Move :=
  (List.range n).map fun i => Move.w8 (a + BitVec.ofNat 32 i) (f i)

/-- The transactions a written command stands for (R111): each operand register it reads, the command word, a `POLL`. -/
def expandCommand (i : Instr) (a0 a1 n : Word) : List Move :=
  (if i.readsArg0 then [Move.w32 0x08 a0] else []) ++ (if i.readsArg1 then [Move.w32 0x0C a1] else []) ++
    (if i.readsOobLen then [Move.w32 0x10 n] else []) ++ [Move.w32 0x00 (encode i), .poll]

end Machine

end Sys2Proof
end

