-- ==== Sys2Proof/Safety.lean ====
section
/-! DEFINITION. What the statements call a good state: the invariant every step keeps, and the final states of a run
(70_reset_and_hazards.md rule R296). -/

namespace Sys2Proof.Machine

/-- The latched operands "equal the registers" (10_state.md rule R35; 70_reset_and_hazards.md rule R301). -/
abbrev State.LatchAgrees (s : State) : Prop :=
  s.latched = none ∨ s.latched = some ⟨s.cmd, s.arg0, s.arg1, s.oobLen⟩

/-- The invariant: the medium and the two buffers in canonical form, no byte outside the medium (R60) or a buffer
(R31, R32), the latch equal to the registers, and the host's duty to read `STATUS` open while a command runs (R294). -/
abbrev State.Inv (s : State) : Prop :=
  s.medium.wf s.cfg.mediumSize ∧ s.dbuf.bufWf s.cfg.pageDataSize ∧ s.obuf.bufWf s.cfg.oobSize ∧ s.LatchAgrees ∧
    (s.busy = true → s.statusOwed = true)

/-- No model fault has been raised: what the model computed is a claim about the hardware (R267). -/
abbrev State.Unfaulted (s : State) : Prop := s.faultMark = none

/-- A final state (R296): idle and unfaulted. -/
abbrev State.Final (s : State) : Prop := s.busy = false ∧ s.Unfaulted

/-- A buffer holds the bytes `bs` from index `lo` on: every one of them has a value (R33). -/
abbrev Memory.Holds (m : Memory) (lo : Nat) (bs : List Byte) : Prop :=
  ∀ k, (h : k < bs.length) → m.bufByte (lo + k) = some bs[k]

/-- An address lies outside a range of the medium. -/
abbrev Outside (a : Nat) (r : Range) : Prop := a < r.1 ∨ r.1 + r.2 ≤ a

/-- The accesses that 20_memory.md rule R70 answers with a bus error, by width and address (R66, R67, R69). -/
abbrev Access.IsBusError (g : Geometry) (a : Access) : Prop :=
  a.width = .w16 ∨ a.width = .w64 ∨
    (a.width = .w32 ∧ ¬(a.addr.toNat < 0x100 ∧ a.addr.toNat % 4 = 0)) ∨
    (a.width = .w8 ∧ ¬(0x10000000 ≤ a.addr.toNat ∧ a.addr.toNat < 0x10000000 + g.pageDataSize) ∧
      ¬(0x20000000 ≤ a.addr.toNat ∧ a.addr.toNat < 0x20000000 + g.oobSize))

/-- The host breaks its duty before the `CMD` write of `w` (70_reset_and_hazards.md rule R294): `w` is a command that
reads an operand register (30_encoding.md rule R109) not written since the last reset. -/
abbrev State.BreaksStartDuty (s : State) (w : Word) : Prop :=
  ∃ i, decodeCommand w = .ok i ∧
    ((s.written.arg0 = false ∧ i ≠ .readId ∧ i ≠ .eraseWindow ∧ i ≠ .eccPage ∧ i ≠ .eccVerify) ∨
      (s.written.arg1 = false ∧ (i = .movePage ∨ i = .planeCheck)) ∨
      (s.written.oobLen = false ∧ (i = .readPage false true ∨ i = .readPage true true)))

/-- The mark after the idle access `a`, one that is no read of `STATUS` or of a geometry register: where the last
command's `STATUS` is not read, the access breaks the host's duty (70_reset_and_hazards.md rule R294). -/
abbrev State.unreadMark (s : State) (a : Access) : Option Fault :=
  if s.statusOwed = true then some (s.faultMark.getD (.hostProtocolViolation a)) else s.faultMark

/-- The accesses the host may make while busy, and before it has read `STATUS` with `BUSY = 0`: 32-bit reads of
`STATUS` (offset 0x04) and of the geometry registers (0x40 to 0x64) (70_reset_and_hazards.md rules R293, R294). -/
abbrev Access.IsStatusOrGeometryRead (a : Access) : Prop :=
  a.width = .w32 ∧ a.isWrite = false ∧ a.addr.toNat % 4 = 0 ∧
    (a.addr.toNat = 0x04 ∨ (0x40 ≤ a.addr.toNat ∧ a.addr.toNat ≤ 0x64))

/-- A byte string with bit `b` of byte `i` flipped (40_ecc_codec.md rule R148). -/
def flipBit (d : List Byte) (i b : Nat) : List Byte := d.modify i fun v => v ^^^ BitVec.twoPow 8 b

end Sys2Proof.Machine
end

