-- ==== Sys2Proof/Certificates/Slice0/Obligations.lean ====
section
/-! DEFINITION. The statements for the provers. Each docstring names the rule of spec/ it formalises. Every statement
holds for every geometry, since the geometry is a field of the state. -/

open Sys2Proof Sys2Proof.Machine

/-! ### Encoding -/

/-- 30 R101, R106, R108: a few words, written out from the encoding, decode as tabled; a few others are refused. -/
def Obligations.TabledWordsDecode : Prop :=
  decodeCommand 0x00000001 = .ok .readId ∧ decodeCommand 0x00000302 = .ok (.readPage true true) ∧
    decodeCommand 0x00000103 = .ok (.writePage false) ∧ decodeCommand 0x00000006 = .ok .eraseWindow ∧
    decodeCommand 0x00000012 = .ok .eccVerify ∧ decodeCommand 0x00000021 = .ok .planeCheck ∧
    decodeCommand 0x00000203 = .error .missingPayload ∧ decodeCommand 0x00000204 = .error .flagNotAllowed ∧
    decodeCommand 0x00000013 = .error .reservedOpcode ∧ decodeCommand 0x80000001 = .error .reservedBits

/-- 30 R106, R108: over all `2^32` words, a word decodes to a command exactly when it is that command's encoding. -/
def Obligations.DecodeIsExactlyEncode : Prop :=
  ∀ (w : Word) (i : Instr), decodeCommand w = .ok i ↔ w = encode i

/-- 30 R108: the legal command words are exactly the fifteen listed, each the command and flags that the rule names. -/
def Obligations.LegalWordsAreTheFifteen : Prop :=
  ∀ (w : Word) (i : Instr), decodeCommand w = .ok i ↔
    (w, i) ∈ ([(0x00000001, .readId), (0x00000002, .readPage false false), (0x00000102, .readPage true false),
      (0x00000202, .readPage false true), (0x00000302, .readPage true true), (0x00000103, .writePage false),
      (0x00000303, .writePage true), (0x00000004, .movePage), (0x00000005, .eraseBlock), (0x00000006, .eraseWindow),
      (0x00000010, .eccCodeword), (0x00000011, .eccPage), (0x00000012, .eccVerify), (0x00000020, .translate),
      (0x00000021, .planeCheck)] : List (Word × Instr))

/-- 30 R106: a word that is not legal, by the four items of the rule, completes `BAD_COMMAND` with no other effect.
The move list is the model's choice (notes/assumptions/9.md). -/
def Obligations.IllegalWordCompletesBadCommand : Prop :=
  ∀ (s : State) (l : Latched), s.latched = some l →
    (l.cmd.extractLsb' 10 22 ≠ 0 ∨
      (l.cmd.extractLsb' 0 8).toNat ∉ [0x01, 0x02, 0x03, 0x04, 0x05, 0x06, 0x10, 0x11, 0x12, 0x20, 0x21] ∨
      (l.cmd.extractLsb' 0 8 = 0x03 ∧ l.cmd.getLsbD 8 = false) ∨
      (l.cmd.extractLsb' 0 8 ≠ 0x02 ∧ l.cmd.extractLsb' 0 8 ≠ 0x03 ∧
        (l.cmd.getLsbD 8 = true ∨ l.cmd.getLsbD 9 = true))) →
    (s.pending = [] → step s = .next { s with code := .badCommand, latched := none }) ∧
      ∀ rest, s.pending = .run :: rest →
        step s = .next { s with code := .badCommand, latched := none, pending := rest }

/-! ### Running a command -/

/-- 70 R291: on the block's turn (nothing pending, or its `Run` next) the step is `exec` of the decoded command.
The move list is the model's choice (notes/assumptions/9.md). -/
def Obligations.StepRunsTheDecodedCommand : Prop :=
  ∀ (s : State) (l : Latched) (i : Instr), s.latched = some l → decodeCommand l.cmd = .ok i →
    (s.pending = [] → step s = exec i s) ∧
      ∀ rest, s.pending = .run :: rest → step s = exec i { s with pending := rest }

/-- 70 R291: every command runs to its end in one step and leaves the block idle; where it raises the fault mark it has
changed nothing else but `BUSY`.
That the latch is then free is the model's reading (notes/assumptions/6.md). -/
def Obligations.EveryCommandEndsIdle : Prop :=
  ∀ (i : Instr) (s : State), ∃ t, exec i s = .next t ∧ t.busy = false ∧
    (t.faultMark ≠ s.faultMark → t = { s with faultMark := t.faultMark, latched := none })

/-- 42 R211: READ_ID (command word `0x00000001`) gives `READ_ID_VALUE` in `RESULT` and completes `OK`; nothing else
changes. -/
def Obligations.ReadIdReturnsItsValue : Prop :=
  encode .readId = 0x00000001 ∧
    ∀ s : State, ∃ t, exec .readId s = .next t ∧
      t = { s with result := t.result, code := .ok, latched := t.latched } ∧ t.busy = false ∧
      t.result.toNat = s.cfg.readIdValue

/-! ### Translator -/

/-- 41 R182: `translate` succeeds exactly below `BLOCK_TOTAL * PAGES_PER_BLOCK`; its block is then in the window, its
page record wholly inside the medium, its page below `2^32`; logical page 0 is the first page of `BLOCK_START`. -/
def Obligations.TranslateSucceedsExactlyInTheWindow : Prop :=
  ∀ (g : Geometry) (lp : Nat),
    ((∃ t, g.translate lp = some t) ↔ lp < g.blockTotal * g.pagesPerBlock) ∧
      (∀ pp pb, g.translate lp = some (pp, pb) →
        g.blockStart ≤ pb ∧ pb < g.blockEnd ∧ pp < g.blockEnd * g.pagesPerBlock ∧
          g.pageBase pp + g.pageSize ≤ g.mediumSize ∧ pp < 2 ^ 32) ∧
      g.translate 0 = some (g.blockStart * g.pagesPerBlock, g.blockStart)

/-- 41 R188: TRANSLATE (command word `0x00000020`), by the formulas of R180 and R181: past the window it completes
`IO_ERROR` and keeps `RESULT`, else `RESULT` is the physical page, exact, and it completes `OK`; nothing else changes. -/
def Obligations.TranslateGivesThePhysicalPage : Prop :=
  encode .translate = 0x00000020 ∧
    ∀ (s : State) (pp : Nat), pp = s.arg0Value + s.cfg.blockStart * s.cfg.pagesPerBlock →
      (pp / s.cfg.pagesPerBlock ≥ s.cfg.blockEnd →
        ∃ t, exec .translate s = .next t ∧ t = { s with code := .ioError, latched := t.latched } ∧ t.busy = false) ∧
      (pp / s.cfg.pagesPerBlock < s.cfg.blockEnd →
        ∃ t, exec .translate s = .next t ∧
          t = { s with result := t.result, code := .ok, latched := t.latched } ∧ t.busy = false ∧ t.result.toNat = pp)

/-- 41 R185, R190: PLANE_CHECK is `OK` exactly when the two pages' blocks are equal modulo `PLANE_NUM`, for any two
operands, in range or not. -/
def Obligations.PlaneCheckComparesBlocksModuloPlanes : Prop :=
  ∀ s : State, exec .planeCheck s = .next { s with
    code := if s.arg0Value / s.cfg.pagesPerBlock % s.cfg.planeNum = s.arg1Value / s.cfg.pagesPerBlock % s.cfg.planeNum
      then .ok else .invalidMove
    latched := none }

/-- 41 R186: for two logical pages that translate, the plane verdict on physical blocks is that on logical blocks. -/
def Obligations.PlaneVerdictIsTheSameOnLogicalBlocks : Prop :=
  ∀ (g : Geometry) (l1 l2 p1 p2 b1 b2 : Nat), g.translate l1 = some (p1, b1) → g.translate l2 = some (p2, b2) →
    (g.planeAligned p1 p2 = true ↔
      l1 / g.pagesPerBlock % g.planeNum = l2 / g.pagesPerBlock % g.planeNum)

/-! ### ECC codec -/

/-- 40 R142 "bit by bit": bit `k` of `oddL` is the XOR of `P(i)` over the indexes with `i[k] = 1`, that of `evenL` over
those with `i[k] = 0`: 1 exactly when the number of such odd bytes is odd. -/
def Obligations.LineParityBitByBit : Prop :=
  ∀ (d : List Byte) (k : Nat), d.length = 256 → k < 8 →
    (oddLine 0 d).getLsbD k =
      (((List.range 256).countP fun i => i.testBit k && oddParity (d.getD i 0)) % 2 == 1) ∧
    (evenLine 0 d).getLsbD k =
      (((List.range 256).countP fun i => !i.testBit k && oddParity (d.getD i 0)) % 2 == 1)

/-- 40 R143 "bit by bit": bit `k` of `oddC` is the XOR of `col[b]` over `b` with `b[k] = 1`, that of `evenC` over `b`
with `b[k] = 0`, for `k` from 0 to 2; no higher bit of either is 1. -/
def Obligations.ColumnParityBitByBit : Prop :=
  ∀ (col : Byte) (k : Nat),
    (oddColumn col).getLsbD k =
      (decide (k < 3) && ((List.range 8).countP fun b => b.testBit k && col.getLsbD b) % 2 == 1) ∧
    (evenColumn col).getLsbD k =
      (decide (k < 3) && ((List.range 8).countP fun b => !b.testBit k && col.getLsbD b) % 2 == 1)

/-- 40 R146: the output bit table, for every input. -/
def Obligations.CodeBitTable : Prop :=
  ∀ d : List Byte, ∀ k < 4,
    (computeCodeword d).c0.getLsbD (2 * k + 1) = !(oddLine 0 d).getLsbD (k + 4) ∧
    (computeCodeword d).c0.getLsbD (2 * k) = !(evenLine 0 d).getLsbD (k + 4) ∧
    (computeCodeword d).c1.getLsbD (2 * k + 1) = !(oddLine 0 d).getLsbD k ∧
    (computeCodeword d).c1.getLsbD (2 * k) = !(evenLine 0 d).getLsbD k ∧
    (k < 3 → (computeCodeword d).c2.getLsbD (2 * k + 3) = !(oddColumn (columnSum d)).getLsbD k ∧
      (computeCodeword d).c2.getLsbD (2 * k + 2) = !(evenColumn (columnSum d)).getLsbD k) ∧
    (computeCodeword d).c2.getLsbD 1 = true ∧ (computeCodeword d).c2.getLsbD 0 = true

/-- 40 R147: before inversion the code is linear: `r(d XOR e) = r(d) XOR r(e)`. -/
def Obligations.RawCodeIsLinear : Prop :=
  ∀ d e : List Byte, d.length = 256 → e.length = 256 →
    (rawCode (List.zipWith (· ^^^ ·) d e)).c0 = (rawCode d).c0 ^^^ (rawCode e).c0 ∧
    (rawCode (List.zipWith (· ^^^ ·) d e)).c1 = (rawCode d).c1 ^^^ (rawCode e).c1 ∧
    (rawCode (List.zipWith (· ^^^ ·) d e)).c2 = (rawCode d).c2 ^^^ (rawCode e).c2

/-- 40 R148: every single-bit and every double-bit change of a codeword changes its code. -/
def Obligations.OneAndTwoBitChangesAreDetected : Prop :=
  ∀ (d : List Byte) (i b : Nat), d.length = 256 → i < 256 → b < 8 →
    computeCodeword (flipBit d i b) ≠ computeCodeword d ∧
      ∀ j c, j < 256 → c < 8 → (j, c) ≠ (i, b) →
        computeCodeword (flipBit (flipBit d i b) j c) ≠ computeCodeword d

/-- 40 R151, R153: the page ECC of an erased payload is `ECC_SIZE` erased bytes, so an erased page passes `ecc_ok`. -/
def Obligations.ErasedPagePassesVerification : Prop :=
  ∀ g : Geometry, computePageEcc (erased g.pageDataSize) = erased g.eccSize ∧
    eccOk g.eccSize (erased g.pageDataSize) (erased g.oobSize) = true

/-- 40 R150: ECC_CODEWORD on a codeword whose bytes are written: `RESULT = {0x00, c2, c1, c0}`, nothing else but
`STATUS`; an index out of range completes `BAD_COMMAND`. -/
def Obligations.EccCodewordPacksTheCode : Prop :=
  ∀ (s : State) (d : List Byte),
    (s.arg0Value ≥ s.cfg.pageDataSize / 256 →
      exec .eccCodeword s = .next { s with code := .badCommand, latched := none }) ∧
    (s.arg0Value < s.cfg.pageDataSize / 256 → d.length = 256 → s.dbuf.Holds (256 * s.arg0Value) d →
      exec .eccCodeword s = .next { s with
        result := (0x00 : Byte) ++ (computeCodeword d).c2 ++ (computeCodeword d).c1 ++ (computeCodeword d).c0
        code := .ok, latched := none })

/-- 40 R154: ECC_PAGE puts the code of codeword `k` at `OBUF[3k .. 3k + 3)` and changes nothing else but `STATUS`. -/
def Obligations.EccPageStoresTheCodes : Prop :=
  ∀ (s : State) (data : List Byte), data.length = s.cfg.pageDataSize → s.dbuf.Holds 0 data →
    ∃ t, exec .eccPage s = .next t ∧ t = { s with obuf := t.obuf, code := .ok, latched := none } ∧
      (∀ k j, k < s.cfg.codewordsPerPage → j < 3 →
        t.obuf.bufByte (3 * k + j) = (computeCodeword (codewordOf data k)).bytes[j]?) ∧
      ∀ i, s.cfg.eccSize ≤ i → t.obuf.bufByte i = s.obuf.bufByte i

/-- 40 R158: ECC_VERIFY is `OK` exactly when the stored prefix is the page's codes; nothing else changes but `STATUS`,
and the free bytes are not read. -/
def Obligations.EccVerifyComparesThePrefix : Prop :=
  ∀ (s : State) (data pre : List Byte), data.length = s.cfg.pageDataSize → s.dbuf.Holds 0 data →
    pre.length = s.cfg.eccSize → s.obuf.Holds 0 pre →
    exec .eccVerify s = .next { s with
      code := if computePageEcc data = pre then .ok else .eccMismatch, latched := none }

/-- 60 R265, 70 R291: a command that reads an unwritten `DBUF` byte of its range (the whole payload, or the 256 bytes of
ECC_CODEWORD's codeword, whatever the bytes outside it hold) sets the mark with the first such byte, if no mark was set,
ends with `BUSY = 0` and changes nothing else.
That the lowest unwritten index is the one reported is the model's reading (notes/assumptions/5.md). -/
def Obligations.UnwrittenOperandRaisesTheFault : Prop :=
  ∀ (s : State) (i lo hi : Nat) (c : Instr),
    ((c = .eccCodeword ∧ s.arg0Value < s.cfg.codewordsPerPage ∧ lo = 256 * s.arg0Value ∧ hi = lo + 256) ∨
      ((c = .eccPage ∨ c = .eccVerify ∨
          ((c = .writePage true ∨ c = .writePage false) ∧ ∃ t, s.cfg.translate s.arg0Value = some t)) ∧
        lo = 0 ∧ hi = s.cfg.pageDataSize)) →
    lo ≤ i → i < hi → s.dbuf.bufByte i = none → (∀ j, lo ≤ j → j < i → s.dbuf.bufByte j ≠ none) →
    exec c s = .next { s with
      faultMark := some (s.faultMark.getD (.uninitialisedBuffer .dbuf i)), latched := none }

/-- 60 R265, 70 R291: the same for an `OBUF` byte: ECC_VERIFY's stored prefix and WRITE_PAGE.D.O's metadata are read
after the payload, in ascending order.
That the lowest unwritten index is the one reported is the model's reading (notes/assumptions/5.md). -/
def Obligations.UnwrittenObufOperandRaisesTheFault : Prop :=
  ∀ (s : State) (i lo hi : Nat) (c : Instr), (∀ j < s.cfg.pageDataSize, s.dbuf.bufByte j ≠ none) →
    ((c = .eccVerify ∧ lo = 0 ∧ hi = s.cfg.eccSize) ∨
      (c = .writePage true ∧ lo = s.cfg.eccSize ∧ hi = s.cfg.oobSize ∧ ∃ t, s.cfg.translate s.arg0Value = some t)) →
    lo ≤ i → i < hi → s.obuf.bufByte i = none → (∀ j, lo ≤ j → j < i → s.obuf.bufByte j ≠ none) →
    exec c s = .next { s with
      faultMark := some (s.faultMark.getD (.uninitialisedBuffer .obuf i)), latched := none }

/-! ### Page commands -/

/-- 42 R214: READ_PAGE, every flag form, on a page in range: `D` loads the payload, `O` the first `OOB_LEN` OOB bytes,
`D` verifies the ECC; no medium byte, no other buffer byte and no register but `STATUS` changes. -/
def Obligations.ReadPageLoadsAndVerifies : Prop :=
  ∀ (s : State) (d o : Bool) (pp pb : Nat), s.cfg.translate s.arg0Value = some (pp, pb) →
    (o = true → s.oobLenValue ≤ s.cfg.oobSize) →
    ∃ t, exec (.readPage d o) s = .next t ∧
      t = { s with dbuf := t.dbuf, obuf := t.obuf, code := t.code, latched := none } ∧
      (d = true → ∀ k < s.cfg.pageDataSize, t.dbuf.bufByte k = some (s.medium.read (s.cfg.pageBase pp + k))) ∧
      (o = true → ∀ k < s.oobLenValue, t.obuf.bufByte k = some (s.medium.read (s.cfg.oobBase pp + k))) ∧
      (d = false → t.dbuf = s.dbuf) ∧ (o = false → t.obuf = s.obuf) ∧
      (∀ k, s.cfg.pageDataSize ≤ k → t.dbuf.bufByte k = s.dbuf.bufByte k) ∧
      (∀ k, s.oobLenValue ≤ k → t.obuf.bufByte k = s.obuf.bufByte k) ∧
      t.code = if d = true ∧ computePageEcc (s.medium.readBytes (s.cfg.pageBase pp) s.cfg.pageDataSize) ≠
          s.medium.readBytes (s.cfg.oobBase pp) s.cfg.eccSize then .eccMismatch else .ok

/-- 42 R210, R214: READ_PAGE's checks, in order: a prefix length above `OOB_SIZE` with `O = 1` is `BAD_COMMAND`,
whatever the page; else a page out of range is `IO_ERROR`. Nothing else changes. -/
def Obligations.ReadPageChecksInOrder : Prop :=
  ∀ (s : State) (d o : Bool),
    (o = true → s.cfg.oobSize < s.oobLenValue →
      exec (.readPage d o) s = .next { s with code := .badCommand, latched := none }) ∧
    ((o = true → s.oobLenValue ≤ s.cfg.oobSize) → s.cfg.translate s.arg0Value = none →
      exec (.readPage d o) s = .next { s with code := .ioError, latched := none })

/-- 42 R220, R221: WRITE_PAGE, both forms, stores the payload, the codes, and the metadata or the erase value; every
byte outside the page record, every buffer and every register but `STATUS` is unchanged. -/
def Obligations.WritePageStoresTheRecord : Prop :=
  ∀ (s : State) (o : Bool) (pp pb : Nat) (data extra : List Byte), s.cfg.translate s.arg0Value = some (pp, pb) →
    data.length = s.cfg.pageDataSize → s.dbuf.Holds 0 data →
    (o = true → extra.length = s.cfg.oobFree ∧ s.obuf.Holds s.cfg.eccSize extra) →
    ∃ t, exec (.writePage o) s = .next t ∧ t = { s with medium := t.medium, code := .ok, latched := none } ∧
      (∀ k, (h : k < data.length) → t.medium.read (s.cfg.pageBase pp + k) = data[k]) ∧
      (∀ k j, k < s.cfg.codewordsPerPage → j < 3 →
        some (t.medium.read (s.cfg.oobBase pp + (3 * k + j))) = (computeCodeword (codewordOf data k)).bytes[j]?) ∧
      (∀ j < s.cfg.oobFree, some (t.medium.read (s.cfg.oobBase pp + (s.cfg.eccSize + j))) =
        if o = true then extra[j]? else some eraseValue) ∧
      ∀ a, a < s.cfg.pageBase pp ∨ s.cfg.pageBase pp + s.cfg.pageSize ≤ a → t.medium.read a = s.medium.read a

/-- 42 R220, 60 R260: WRITE_PAGE of a page out of range is `IO_ERROR`, before any buffer byte is read. -/
def Obligations.WritePageOutOfRange : Prop :=
  ∀ (s : State) (o : Bool), s.cfg.blockTotal * s.cfg.pagesPerBlock ≤ s.arg0Value →
    exec (.writePage o) s = .next { s with code := .ioError, latched := none }

/-- 42 R223: the round trip. WRITE_PAGE.D.O of a page, then, from any state that still holds that page record, a
READ_PAGE.D.O of it with `OOB_LEN = OOB_SIZE`: `OK`, the payload and the metadata as written, the codes computed. -/
def Obligations.WriteThenReadRoundTrip : Prop :=
  ∀ (s t u : State) (pp pb : Nat) (data extra : List Byte), s.cfg.translate s.arg0Value = some (pp, pb) →
    data.length = s.cfg.pageDataSize → s.dbuf.Holds 0 data →
    extra.length = s.cfg.oobFree → s.obuf.Holds s.cfg.eccSize extra →
    exec (.writePage true) s = .next t →
    u.cfg = s.cfg → u.arg0Value = s.arg0Value → u.oobLenValue = s.cfg.oobSize →
    (∀ a, s.cfg.pageBase pp ≤ a → a < s.cfg.pageBase pp + s.cfg.pageSize → u.medium.read a = t.medium.read a) →
    ∃ v, exec (.readPage true true) u = .next v ∧ v.code = .ok ∧ v.dbuf.Holds 0 data ∧
      v.obuf.Holds s.cfg.eccSize extra ∧ v.obuf.Holds 0 (computePageEcc data)

/-- 42 R226, R227: MOVE_PAGE between aligned pages in range copies the page record byte for byte, as it was before,
and changes no byte outside the destination record and no register but `STATUS`. -/
def Obligations.MovePageCopiesTheRecord : Prop :=
  ∀ (s : State) (fp fb tp tb : Nat), s.cfg.translate s.arg0Value = some (fp, fb) →
    s.cfg.translate s.arg1Value = some (tp, tb) → fb % s.cfg.planeNum = tb % s.cfg.planeNum →
    ∃ t, exec .movePage s = .next t ∧ t = { s with medium := t.medium, code := .ok, latched := none } ∧
      (∀ k < s.cfg.pageSize, t.medium.read (s.cfg.pageBase tp + k) = s.medium.read (s.cfg.pageBase fp + k)) ∧
      ∀ a, a < s.cfg.pageBase tp ∨ s.cfg.pageBase tp + s.cfg.pageSize ≤ a → t.medium.read a = s.medium.read a

/-- 42 R226, 60 R268: MOVE_PAGE's checks, in order: either page out of range is `IO_ERROR`; else blocks in different
plane groups are `INVALID_MOVE`. Nothing else changes. -/
def Obligations.MovePageChecksInOrder : Prop :=
  ∀ s : State,
    (s.cfg.translate s.arg0Value = none ∨ s.cfg.translate s.arg1Value = none →
      exec .movePage s = .next { s with code := .ioError, latched := none }) ∧
    ∀ fp fb tp tb, s.cfg.translate s.arg0Value = some (fp, fb) → s.cfg.translate s.arg1Value = some (tp, tb) →
      fb % s.cfg.planeNum ≠ tb % s.cfg.planeNum →
      exec .movePage s = .next { s with code := .invalidMove, latched := none }

/-- 42 R228: with `PLANE_NUM = 2` a MOVE_PAGE between blocks of different parity is `INVALID_MOVE`; in one plane group
it is `OK`, and a READ_PAGE.D.O of the destination with `OOB_LEN = OOB_SIZE`, from any state with that medium, returns the
exact bytes that were at the source, `OK` exactly when the source's payload matched its ECC prefix. -/
def Obligations.MoveThenReadReturnsTheSource : Prop :=
  ∀ (s : State) (fp fb tp tb : Nat), s.cfg.translate s.arg0Value = some (fp, fb) →
    s.cfg.translate s.arg1Value = some (tp, tb) →
    (s.cfg.planeNum = 2 → fb % 2 ≠ tb % 2 → ∃ t, exec .movePage s = .next t ∧ t.code = .invalidMove) ∧
    (fb % s.cfg.planeNum = tb % s.cfg.planeNum → ∃ t, exec .movePage s = .next t ∧ t.code = .ok ∧
      ∀ u : State, u.cfg = t.cfg → u.medium = t.medium → u.arg0Value = s.arg1Value → u.oobLenValue = s.cfg.oobSize →
      ∃ v, exec (.readPage true true) u = .next v ∧
        (∀ k < s.cfg.pageDataSize, v.dbuf.bufByte k = some (s.medium.read (s.cfg.pageBase fp + k))) ∧
        (∀ k < s.cfg.oobSize, v.obuf.bufByte k = some (s.medium.read (s.cfg.oobBase fp + k))) ∧
        v.code = if computePageEcc (s.medium.readBytes (s.cfg.pageBase fp) s.cfg.pageDataSize) =
            s.medium.readBytes (s.cfg.oobBase fp) s.cfg.eccSize then .ok else .eccMismatch)

/-! ### Erase commands -/

/-- 42 R232: ERASE_BLOCK (command word `0x00000005`) of a block past the device completes `IO_ERROR`; of any physical
block of the device it erases exactly that block's bytes and completes `OK`; nothing else changes. -/
def Obligations.EraseBlockErasesExactlyTheBlock : Prop :=
  encode .eraseBlock = 0x00000005 ∧
    ∀ s : State,
      (s.cfg.blocksInDevice ≤ s.arg0Value →
        ∃ t, exec .eraseBlock s = .next t ∧ t = { s with code := .ioError, latched := t.latched } ∧ t.busy = false) ∧
      (s.arg0Value < s.cfg.blocksInDevice →
        ∃ t, exec .eraseBlock s = .next t ∧
          t = { s with medium := t.medium, code := .ok, latched := t.latched } ∧ t.busy = false ∧
          (∀ k < s.cfg.blockSize, t.medium.read (s.arg0Value * s.cfg.blockSize + k) = 0xFF) ∧
          ∀ a, a < s.arg0Value * s.cfg.blockSize ∨ s.arg0Value * s.cfg.blockSize + s.cfg.blockSize ≤ a →
            t.medium.read a = s.medium.read a)

/-- 42 R234: after ERASE_BLOCK `b`, READ_PAGE.D of every page that translates into block `b` returns erased bytes and
completes `OK`. -/
def Obligations.EraseThenReadReturnsErasedBytes : Prop :=
  ∀ (s t u : State) (pp : Nat), s.arg0Value < s.cfg.blocksInDevice → exec .eraseBlock s = .next t →
    u.cfg = t.cfg → u.medium = t.medium → u.cfg.translate u.arg0Value = some (pp, s.arg0Value) →
    ∃ v, exec (.readPage true false) u = .next v ∧ v.code = .ok ∧
      ∀ k < s.cfg.pageDataSize, v.dbuf.bufByte k = some 0xFF

/-- 42 R240: ERASE_WINDOW erases exactly the blocks `BLOCK_START` to `BLOCK_END - 1`, with `RESULT = 0` and `OK`. -/
def Obligations.EraseWindowErasesExactlyTheWindow : Prop :=
  ∀ s : State, ∃ t, exec .eraseWindow s = .next t ∧
    t = { s with medium := t.medium, result := 0, code := .ok, latched := none } ∧
    (∀ a, s.cfg.blockStart * s.cfg.blockSize ≤ a → a < s.cfg.blockEnd * s.cfg.blockSize → t.medium.read a = 0xFF) ∧
    ∀ a, a < s.cfg.blockStart * s.cfg.blockSize ∨ s.cfg.blockEnd * s.cfg.blockSize ≤ a →
      t.medium.read a = s.medium.read a

/-! ### Frames over all commands -/

/-- 10 R24 to R28, R31, R32, 92 D26: what a command can change. No command writes the geometry, `CMD`, `ARG0`, `ARG1`,
`OOB_LEN` or the host's side; `RESULT` only on the outcomes listed; each buffer and the medium only by the commands
listed. -/
def Obligations.CommandsChangeOnlyTheirOutputs : Prop :=
  ∀ (i : Instr) (s t : State), exec i s = .next t →
    (t.cfg = s.cfg ∧ t.cmd = s.cmd ∧ t.arg0 = s.arg0 ∧ t.arg1 = s.arg1 ∧ t.oobLen = s.oobLen ∧
      t.pending = s.pending ∧ t.response = s.response ∧ t.freeCount = s.freeCount ∧ t.statusOwed = s.statusOwed ∧
      t.written = s.written) ∧
    (t.result ≠ s.result → i = .readId ∨ (i = .translate ∧ t.code = .ok) ∨ (i = .eccCodeword ∧ t.code = .ok) ∨
      i = .eraseWindow) ∧
    (t.dbuf ≠ s.dbuf → ∃ o, i = .readPage true o) ∧
    (t.obuf ≠ s.obuf → i = .eccPage ∨ ∃ d, i = .readPage d true) ∧
    (t.medium ≠ s.medium → i = .movePage ∨ i = .eraseBlock ∨ i = .eraseWindow ∨ ∃ o, i = .writePage o)

/-- 70 R297 with 42 R220 to R240: a command writes no medium byte outside its footprint. -/
def Obligations.CommandsWriteOnlyTheirFootprint : Prop :=
  ∀ (i : Instr) (s t : State) (a : Nat), exec i s = .next t → (∀ r ∈ s.footprintOf i, Outside a r) →
    t.medium.read a = s.medium.read a

/-- 42 R210: a command that completes `BAD_COMMAND`, `IO_ERROR` or `INVALID_MOVE` has changed nothing but `STATUS`
(`RESULT` for ERASE_WINDOW). A mark raised instead leaves `CODE` as it was, so it is set apart. -/
def Obligations.FailedCommandsChangeOnlyStatus : Prop :=
  ∀ (i : Instr) (s t : State), exec i s = .next t → t.faultMark = s.faultMark →
    (t.code = .badCommand ∨ t.code = .ioError ∨ t.code = .invalidMove) →
    t = { s with code := t.code, latched := none, result := t.result } ∧
      (i ≠ .eraseWindow → t.result = s.result)

/-! ### The host port -/

/-- 30 R105: the `STATUS` word: `BUSY` in bit 31, `CODE` (by the values of R104) in bits `[3:0]`, zeros elsewhere. -/
def Obligations.StatusWordLayout : Prop :=
  ∀ s : State, s.status.getLsbD 31 = s.busy ∧ s.status.extractLsb' 4 27 = 0 ∧
    (s.status.extractLsb' 0 4).toNat = match s.code with
      | .ok => 0
      | .ioError => 1
      | .eccMismatch => 2
      | .invalidMove => 3
      | .badCommand => 4

/-- 20 R71, 10 R29, 70 R294: an idle 32-bit read of the register block gives the register at that offset, 0 at a
reserved one, and changes nothing of the block. After a command `STATUS` is the register to read first, and reading it
does the host's duty; any other read before it is marked, and gives its register all the same.
The move list and the host's response are the model's choice (notes/assumptions/9.md, 11.md), the duty's field is its
reading (18.md). -/
def Obligations.RegisterReadsReturnTheRegister : Prop :=
  ∀ (s : State) (a v : Word) (rest : List Move), s.busy = false → s.pending = .access (.read32 a) :: rest →
    ((a, v) ∈ [(0x00, s.cmd), (0x04, s.status), (0x08, s.arg0), (0x0C, s.arg1), (0x10, s.oobLen), (0x14, s.result)] ∨
      (a.toNat % 4 = 0 ∧ v = 0 ∧
        ((0x18 ≤ a.toNat ∧ a.toNat ≤ 0x3C) ∨ (0x68 ≤ a.toNat ∧ a.toNat ≤ 0xFC)))) →
    step s = .next { s with
      pending := rest, response := .word v
      statusOwed := if a = 0x04 then false else s.statusOwed
      faultMark := if a = 0x04 then s.faultMark else s.unreadMark (.read32 a) }

/-- 10 R22, 70 R293: a 32-bit read of a geometry register, idle or busy, gives its geometry value zero-extended, for
a value that fits 32 bits.
The move list and the host's response are the model's choice (notes/assumptions/9.md, 11.md); that such a read stays
allowed after a command has ended and before its `STATUS` is read (70 R294) is its reading (18.md). -/
def Obligations.GeometryRegistersReadTheGeometry : Prop :=
  ∀ (s : State) (a : Word) (n : Nat) (rest : List Move), s.pending = .access (.read32 a) :: rest → n < 2 ^ 32 →
    (a, n) ∈ [(0x40, s.cfg.planeNum), (0x44, s.cfg.oobSize), (0x48, s.cfg.oobSize - s.cfg.pageDataSize * 3 / 256),
      (0x4C, s.cfg.pageDataSize), (0x50, s.cfg.pagesPerBlock), (0x54, s.cfg.blockStart), (0x58, s.cfg.blockEnd),
      (0x5C, s.cfg.blockEnd - s.cfg.blockStart), (0x60, s.cfg.blocksInDevice),
      (0x64, s.cfg.pageDataSize * 3 / 256)] →
    step s = .next { s with pending := rest, response := .word (BitVec.ofNat 32 n) }

/-- 20 R71, 10 R24, R25, R27, R29: an idle 32-bit write stores an operand register, which is then written (70 R294); a
write to `STATUS`, `RESULT`, a geometry register or a reserved offset changes nothing of the block. A write before the
last command's `STATUS` is read is marked, and has its effect all the same (70 R294).
The move list and the host's response are the model's choice (notes/assumptions/9.md, 11.md), the duties' fields are its
reading (18.md, 20.md). -/
def Obligations.RegisterWritesStoreOrAreIgnored : Prop :=
  ∀ (s : State) (a v : Word) (rest : List Move) (m : Option Fault), s.busy = false →
    s.pending = .access (.write32 a v) :: rest → m = s.unreadMark (.write32 a v) →
    (a = 0x08 → step s = .next { s with
      arg0 := v, written := { s.written with arg0 := true }, pending := rest, response := .ack, faultMark := m }) ∧
    (a = 0x0C → step s = .next { s with
      arg1 := v, written := { s.written with arg1 := true }, pending := rest, response := .ack, faultMark := m }) ∧
    (a = 0x10 → step s = .next { s with
      oobLen := v, written := { s.written with oobLen := true }, pending := rest, response := .ack, faultMark := m }) ∧
    (a.toNat % 4 = 0 → a.toNat < 0x100 → a = 0x04 ∨ 0x14 ≤ a.toNat →
      step s = .next { s with pending := rest, response := .ack, faultMark := m })

/-- 70 R292, R294, 10 R23, R35: every idle write of `CMD` stores the word, latches it with the operand registers, sets
`BUSY` and keeps `CODE`; nothing else of the block changes, and the host's duty to read `STATUS` opens. A host that has
not read the last command's `STATUS`, or not written an operand register the command reads, gets the mark, if none was
set; no other host gets one.
The move list and the host's response are the model's choice (notes/assumptions/9.md, 11.md); the duties' fields and
which fault the mark is are its reading (18.md, 20.md). -/
def Obligations.CommandWriteStartsTheCommand : Prop :=
  ∀ (s : State) (w : Word) (rest : List Move), s.busy = false → s.pending = .access (.write32 0x00 w) :: rest →
    ∃ t, step s = .next t ∧
      t = { s with
        cmd := w, latched := some ⟨w, s.arg0, s.arg1, s.oobLen⟩, pending := rest, response := .ack
        statusOwed := true, faultMark := t.faultMark } ∧
      (s.statusOwed = true ∨ s.BreaksStartDuty w →
        t.faultMark = some (s.faultMark.getD (.hostProtocolViolation (.write32 0x00 w)))) ∧
      (s.statusOwed = false → ¬s.BreaksStartDuty w → t.faultMark = s.faultMark) ∧
      t.status = 0x80000000 ||| s.status

/-- 20 R67, R71, 10 R33: an idle 8-bit write of a buffer byte gives it the value, changes no other byte of the two
buffers, and the same read next returns it. Before the last command's `STATUS` is read the write is marked, and has its
effect all the same (70 R294).
The move list and the host's response are the model's choice (notes/assumptions/9.md, 11.md), the duty's field is its
reading (18.md). -/
def Obligations.BufferByteWriteThenRead : Prop :=
  ∀ (s : State) (a : Word) (v : Byte) (b : BufferName) (i : Nat) (rest : List Move), s.busy = false →
    s.pending = .access (.write8 a v) :: .access (.read8 a) :: rest →
    ((b = .dbuf ∧ i < s.cfg.pageDataSize ∧ a.toNat = 0x10000000 + i) ∨
      (b = .obuf ∧ i < s.cfg.oobSize ∧ a.toNat = 0x20000000 + i)) →
    ∃ t, step s = .next t ∧
      t = { s with
        dbuf := t.dbuf, obuf := t.obuf, pending := .access (.read8 a) :: rest, response := .ack
        faultMark := s.unreadMark (.write8 a v) } ∧
      (∀ c k, (t.buffer c).bufByte k = if c = b ∧ k = i then some v else (s.buffer c).bufByte k) ∧
      step t = .next { t with pending := rest, response := .byte v }

/-- 10 R33, 60 R265: an idle 8-bit read of an unwritten buffer byte raises `UninitialisedBuffer` and changes nothing else
of the block. Before the last command's `STATUS` is read the read itself is marked first (70 R294, 60 R267).
The move list and the host's response are the model's choice (notes/assumptions/9.md, 11.md), the duty's field is its
reading (18.md). -/
def Obligations.UnwrittenBufferReadRaisesTheFault : Prop :=
  ∀ (s : State) (a : Word) (b : BufferName) (i : Nat) (rest : List Move), s.busy = false →
    s.pending = .access (.read8 a) :: rest →
    ((b = .dbuf ∧ i < s.cfg.pageDataSize ∧ a.toNat = 0x10000000 + i) ∨
      (b = .obuf ∧ i < s.cfg.oobSize ∧ a.toNat = 0x20000000 + i)) →
    (s.buffer b).bufByte i = none →
    step s = .next { s with
      faultMark := some ((s.unreadMark (.read8 a)).getD (.uninitialisedBuffer b i)), pending := rest
      response := .noValue }

/-- 20 R70, 60 R264: the accesses R70 lists, by width and address, are bus errors, idle or busy: the mark is set if it
was not, and nothing else of the block changes.
The move list and the host's response are the model's choice (notes/assumptions/9.md, 11.md). -/
def Obligations.BusErrorsChangeNothing : Prop :=
  ∀ (s : State) (a : Access) (rest : List Move), s.pending = .access a :: rest → a.IsBusError s.cfg →
    step s = .next { s with
      faultMark := some (s.faultMark.getD (.busError a.addr a.width a.isWrite)), pending := rest
      response := .busError }

/-- 70 R293, 60 R266: while busy every access but a read of `STATUS` or of a geometry register, and but a bus error, is
a protocol violation: the mark is set if it was not, and nothing else of the block changes.
The move list and the host's response are the model's choice (notes/assumptions/9.md, 11.md). -/
def Obligations.BusyAccessIsAViolation : Prop :=
  ∀ (s : State) (a : Access) (rest : List Move), s.busy = true → s.pending = .access a :: rest →
    ¬a.IsBusError s.cfg → ¬a.IsStatusOrGeometryRead →
    step s = .next { s with
      faultMark := some (s.faultMark.getD (.hostProtocolViolation a)), pending := rest, response := .noValue }

/-- 70 R293, 10 R26: while busy a read of `STATUS` gives `BUSY = 1` and the previous code, and changes nothing.
The move list and the host's response are the model's choice (notes/assumptions/9.md, 11.md). -/
def Obligations.BusyStatusReadIsAllowed : Prop :=
  ∀ (s : State) (rest : List Move), s.busy = true → s.pending = .access (.read32 0x04) :: rest →
    step s = .next { s with pending := rest, response := .word (0x80000000 ||| s.code.value.setWidth 32) }

/-- 70 R302, R294, 30 R112: every `POLL` ends, within three steps, with the block idle, the last `STATUS` read and the
host's duty to read it done.
When the block takes its turn is the model's choice (notes/assumptions/7.md), the duty's field is its reading (18.md). -/
def Obligations.EveryPollEnds : Prop :=
  ∀ (s : State) (rest : List Move), s.pending = .poll :: rest →
    ∃ k ≤ 3, ∃ t, core.run k s = .next t ∧ t.pending = rest ∧ t.busy = false ∧ t.response = .word t.status ∧
      t.statusOwed = false

/-- 30 R111: from an idle block, the transactions a written command stands for store the operand registers the command
reads, run it once and read its `STATUS` last; the registers it does not read keep their values. Where the last command's
`STATUS` is read they break no duty of the host (70 R294), and the mark is as it was when the command runs; else a mark is
set by then.
How a `POLL` lets the block take its turn (notes/assumptions/7.md), the move list (9.md) and the response field (11.md)
are the model's choice; the duties' fields are its reading (18.md, 20.md). -/
def Obligations.ExpandedCommandRunsToItsEnd : Prop :=
  ∀ (i : Instr) (s : State) (a0 a1 n : Word) (rest : List Move), s.busy = false →
    s.pending = expandCommand i a0 a1 n ++ rest →
    ∃ k ≤ 6, ∃ r m v, (s.statusOwed = false → m = s.faultMark) ∧ (s.statusOwed = true → m ≠ none) ∧
      exec i { s with
        cmd := encode i
        arg0 := if i.readsArg0 then a0 else s.arg0
        arg1 := if i.readsArg1 then a1 else s.arg1
        oobLen := if i.readsOobLen then n else s.oobLen
        latched := some ⟨encode i, if i.readsArg0 then a0 else s.arg0, if i.readsArg1 then a1 else s.arg1,
          if i.readsOobLen then n else s.oobLen⟩
        pending := .poll :: rest, response := r, statusOwed := true, faultMark := m
        written := ⟨s.written.arg0 || i.readsArg0, s.written.arg1 || i.readsArg1, s.written.oobLen || i.readsOobLen⟩ } =
          .next v ∧
      core.run k s = .next { v with pending := rest, response := .word v.status, statusOwed := false }

/-! ### Reset and interruption -/

/-- 70 R290, 20 R65: the state right after the first reset: every register 0, every buffer byte unwritten, idle, no
mark, no `STATUS` left to read and no operand register written (70 R294, notes/assumptions/18.md, 20.md); medium byte `a` is the initial image's byte below `MEDIUM_SIZE`, and `0xFF` where the image has none. -/
def Obligations.FirstResetState : Prop :=
  ∀ (g : Geometry) (image : List Byte) (t : State), t = State.resetOf g image →
    t.cfg = g ∧ t.cmd = 0 ∧ t.status = 0 ∧ t.arg0 = 0 ∧ t.arg1 = 0 ∧ t.oobLen = 0 ∧ t.result = 0 ∧
      (∀ b k, (t.buffer b).bufByte k = none) ∧ t.latched = none ∧ t.faultMark = none ∧ t.statusOwed = false ∧
      t.written = ⟨false, false, false⟩ ∧
      ∀ a < g.mediumSize, t.medium.read a = if h : a < image.length then image[a] else 0xFF

/-- 70 R290: a later reset of an idle block: registers 0, buffers unwritten, idle; the geometry, the medium (the fill
of R65 changes nothing, for a medium within its size) and the fault mark are kept.
The move list is the model's choice (notes/assumptions/9.md); that no `STATUS` is then left to read and every
operand register is to be written anew (70 R295) is its reading (18.md, 20.md). -/
def Obligations.IdleResetKeepsTheMedium : Prop :=
  ∀ (s : State) (rest : List Move), s.Inv → s.busy = false → s.pending = .reset :: rest →
    step s = .next { s with
      cmd := 0, code := .ok, arg0 := 0, arg1 := 0, oobLen := 0, result := 0, dbuf := [], obuf := []
      pending := rest, statusOwed := false, written := ⟨false, false, false⟩ }

/-- 70 R290, R297: a reset of a busy block resets the same fields; a medium byte outside the footprint of the
interrupted command is kept. The bytes of the footprint are free values: nothing is said of them.
`Obligations.FootprintIsTheTable` says which bytes those are.
The move list is the model's choice (notes/assumptions/9.md); that no `STATUS` is then left to read and every
operand register is to be written anew (70 R295) is its reading (18.md, 20.md). -/
def Obligations.BusyResetScramblesOnlyTheFootprint : Prop :=
  ∀ (s : State) (rest : List Move), s.Inv → s.busy = true → s.pending = .reset :: rest →
    ∃ t, step s = .next t ∧
      t = { s with
        cmd := 0, code := .ok, arg0 := 0, arg1 := 0, oobLen := 0, result := 0, dbuf := [], obuf := []
        latched := none, medium := t.medium, freeCount := t.freeCount, pending := rest
        statusOwed := false, written := ⟨false, false, false⟩ } ∧
      ∀ a, (∀ r ∈ s.footprint, Outside a r) → t.medium.read a = s.medium.read a

/-! ### Rules of the whole machine -/

/-- 10 R34, R35, 20 R60, 70 R294, R301: the invariant is kept by every step from every state that meets it: the medium
and the buffers stay in canonical form within their sizes, the latch stays equal to the registers, and while a command
runs the host has still to read `STATUS` (notes/assumptions/18.md). -/
def Obligations.StepKeepsTheInvariant : Prop :=
  ∀ s t : State, s.Inv → step s = .next t → t.Inv

/-- 70 R290: the invariant holds right after the first reset, for every geometry and every initial image. -/
def Obligations.ResetMeetsTheInvariant : Prop :=
  (∀ (g : Geometry) (image : List Byte), (State.resetOf g image).Inv) ∧ State.reset.Inv

/-- 60 R267, 10 R37: the fault mark is never cleared or replaced, by reset or anything else. -/
def Obligations.FaultMarkIsSticky : Prop :=
  ∀ (s t : State) (f : Fault), s.faultMark = some f → step s = .next t → t.faultMark = some f

/-- 10 R20 item 1, R22: no step changes the geometry. -/
def Obligations.GeometryNeverChanges : Prop :=
  ∀ s t : State, step s = .next t → t.cfg = s.cfg

/-- 10 R34, 20 R68: the medium changes only while a command is running or is interrupted; no host access of an idle
block, and no reset of one, changes it.
The move list is the model's choice (notes/assumptions/9.md). -/
def Obligations.MediumChangesOnlyWhileBusy : Prop :=
  ∀ s t : State, s.Inv → step s = .next t → t.medium ≠ s.medium →
    s.busy = true ∧ (s.pending = [] ∨ ∃ m rest, s.pending = m :: rest ∧ (m = .run ∨ m = .reset))

/-- 70 R296, 60 R267: no state deadlocks and no step stops: every state has a next state, and a state with nothing
pending and nothing latched is one in which only the host can move.
That a step with nothing to do leaves the state is the model's choice (notes/assumptions/8.md). -/
def Obligations.NoStepStops : Prop :=
  ∀ s : State, (∃ t, step s = .next t) ∧ (s.pending = [] → s.busy = false → step s = .next s)

/-! ### The footprint, and the host's duty on completion -/

/-- 70 R297: the table of footprints, outright. A byte is in the footprint exactly when the latched word decodes to
WRITE_PAGE, its checks pass and the buffer bytes it reads are written, and the byte is in the page record of `ARG0`; or
to MOVE_PAGE, its checks pass, and the byte is in the page record of `ARG1`; or to ERASE_BLOCK, its check passes, and the
byte is in block `ARG0`; or to ERASE_WINDOW and the byte is in a block of the window. So the footprint is empty for every
other command, a word that is no command, a failing check, a fault before the first medium write and an idle block. -/
def Obligations.FootprintIsTheTable : Prop :=
  ∀ (s : State) (a : Nat), (∃ r ∈ s.footprint, r.1 ≤ a ∧ a < r.1 + r.2) ↔
    ∃ l i, s.latched = some l ∧ decodeCommand l.cmd = .ok i ∧
      ((∃ o pp pb, i = .writePage o ∧ s.cfg.translate l.arg0.toNat = some (pp, pb) ∧
          (∀ k < s.cfg.pageDataSize, s.dbuf.bufByte k ≠ none) ∧
          (o = true → ∀ k, s.cfg.eccSize ≤ k → k < s.cfg.oobSize → s.obuf.bufByte k ≠ none) ∧
          s.cfg.pageBase pp ≤ a ∧ a < s.cfg.pageBase pp + s.cfg.pageSize) ∨
        (∃ fp fb tp tb, i = .movePage ∧ s.cfg.translate l.arg0.toNat = some (fp, fb) ∧
          s.cfg.translate l.arg1.toNat = some (tp, tb) ∧ fb % s.cfg.planeNum = tb % s.cfg.planeNum ∧
          s.cfg.pageBase tp ≤ a ∧ a < s.cfg.pageBase tp + s.cfg.pageSize) ∨
        (i = .eraseBlock ∧ l.arg0.toNat < s.cfg.blocksInDevice ∧ l.arg0.toNat * s.cfg.blockSize ≤ a ∧
          a < l.arg0.toNat * s.cfg.blockSize + s.cfg.blockSize) ∨
        (i = .eraseWindow ∧ ∃ b, s.cfg.blockStart ≤ b ∧ b < s.cfg.blockEnd ∧ b * s.cfg.blockSize ≤ a ∧
          a < b * s.cfg.blockSize + s.cfg.blockSize))

/-- 70 R294, 20 R71: after a command has ended, every access made before `STATUS` is read, but a read of `STATUS` or of a
geometry register, and but a bus error, breaks the host's duty: the mark is set if it was not. The access has exactly the
effect it has where no `STATUS` is left to read, and the duty stays open.
Which fault it is, and that a geometry register may still be read, is the model's reading (notes/assumptions/18.md); the
move list and the host's response are its choice (9.md, 11.md). -/
def Obligations.AccessBeforeStatusIsAViolation : Prop :=
  ∀ (s : State) (a : Access) (rest : List Move), s.busy = false → s.statusOwed = true → s.pending = .access a :: rest →
    ¬a.IsBusError s.cfg → ¬a.IsStatusOrGeometryRead →
    ∃ t u, step s = .next t ∧ step { s with statusOwed := false } = .next u ∧
      t = { u with faultMark := some (s.faultMark.getD (.hostProtocolViolation a)), statusOwed := true }

/-- 70 R294: once open, the host's duty to read `STATUS` is done only by a read of `STATUS` of an idle block (alone or in
a `POLL`), or ended by a reset.
The duty's field is the model's reading (notes/assumptions/18.md), the move list its choice (9.md). -/
def Obligations.OnlyStatusReadOrResetEndsTheDuty : Prop :=
  ∀ s t : State, step s = .next t → s.statusOwed = true → t.statusOwed = false →
    ∃ m rest, s.pending = m :: rest ∧
      (m = .reset ∨ (s.busy = false ∧ (m = .poll ∨ m = .access (.read32 0x04))))
end

