-- ==== Sys2Proof/Laws/Ecc.lean ====
section
/-! SUPPORT. The shape of the codec's results (40_ecc_codec.md rule R151). -/

namespace Sys2Proof.Machine

@[simp] theorem Code.length_bytes (c : Code) : c.bytes.length = 3 := rfl

theorem flatMap_length_three {α β : Type} (l : List α) (f : α → List β) (h : ∀ a, (f a).length = 3) :
    (l.flatMap f).length = 3 * l.length := by
  induction l with
  | nil => rfl
  | cons a l ih => rw [List.flatMap_cons, List.length_append, h, ih, List.length_cons]; omega

/-- Blocks of three: element `3k + j` of the concatenation is element `j` of block `k`. -/
theorem flatMap_getElem?_three {α β : Type} (l : List α) (f : α → List β) (h : ∀ a, (f a).length = 3) (k j : Nat)
    (hk : k < l.length) (hj : j < 3) : (l.flatMap f)[3 * k + j]? = (f l[k])[j]? := by
  induction l generalizing k with
  | nil => simp at hk
  | cons a l ih =>
    rw [List.flatMap_cons]
    cases k with
    | zero => rw [List.getElem?_append_left (by rw [h]; omega)]; simp
    | succ k =>
      rw [List.getElem?_append_right (by rw [h]; omega), h, show 3 * (k + 1) + j - 3 = 3 * k + j by omega,
        ih k (by simpa using hk)]
      simp

/-- The page ECC has three bytes for each codeword (R151). -/
theorem length_computePageEcc (data : List Byte) : (computePageEcc data).length = 3 * (data.length / 256) := by
  rw [computePageEcc, flatMap_length_three _ _ fun _ => rfl, List.length_range]

/-- The code of codeword `k` stands at `3k` (R62, R151). -/
theorem getElem?_computePageEcc (data : List Byte) (k j : Nat) (hk : k < data.length / 256) (hj : j < 3) :
    (computePageEcc data)[3 * k + j]? = (computeCodeword (codewordOf data k)).bytes[j]? := by
  rw [computePageEcc, flatMap_getElem?_three _ _ (fun _ => rfl) k j (by simpa using hk) hj]
  simp

end Sys2Proof.Machine
end

