-- ==== Sys2Proof/Laws/Geometry.lean ====
section
/-! SUPPORT. What a well-formed geometry gives (00_scope.md rule R8), and the translator's bounds. -/

namespace Sys2Proof

/-! ### The items of R8 as facts -/

theorem Geometry.wf_parts (g : Geometry) :
    (0 < g.pageDataSize ∧ g.pageDataSize % 256 = 0) ∧ g.pageDataSize * 3 / 256 ≤ g.oobSize ∧
      (1 ≤ g.planeNum ∧ 2 ^ g.planeNum.log2 = g.planeNum) ∧ 1 ≤ g.pagesPerBlock ∧
      (g.blockStart < g.blockEnd ∧ g.blockEnd ≤ g.blocksInDevice) ∧
      (g.pageDataSize ≤ 2 ^ 28 ∧ g.oobSize ≤ 2 ^ 28) ∧ g.blocksInDevice * g.pagesPerBlock ≤ 2 ^ 32 ∧
      g.readIdValue < 2 ^ 32 := by
  have h := g.wellFormed
  simp only [Params.wf, Params.pageDataOk, Params.oobOk, Params.planeOk, Params.pagesOk, Params.windowOk,
    Params.buffersFit, Params.pageNumbersFit, Params.readIdFits, Bool.and_eq_true, decide_eq_true_eq] at h
  tauto

theorem Geometry.pageDataSize_pos (g : Geometry) : 0 < g.pageDataSize := g.wf_parts.1.1
theorem Geometry.pageDataSize_mod (g : Geometry) : g.pageDataSize % 256 = 0 := g.wf_parts.1.2
theorem Geometry.eccSize_le_oobSize (g : Geometry) : g.eccSize ≤ g.oobSize := g.wf_parts.2.1
theorem Geometry.planeNum_pow (g : Geometry) : 2 ^ g.planeNum.log2 = g.planeNum := g.wf_parts.2.2.1.2
theorem Geometry.pagesPerBlock_pos (g : Geometry) : 0 < g.pagesPerBlock := g.wf_parts.2.2.2.1
theorem Geometry.blockStart_lt (g : Geometry) : g.blockStart < g.blockEnd := g.wf_parts.2.2.2.2.1.1
theorem Geometry.blockEnd_le (g : Geometry) : g.blockEnd ≤ g.blocksInDevice := g.wf_parts.2.2.2.2.1.2
theorem Geometry.pageDataSize_le (g : Geometry) : g.pageDataSize ≤ 2 ^ 28 := g.wf_parts.2.2.2.2.2.1.1
theorem Geometry.oobSize_le (g : Geometry) : g.oobSize ≤ 2 ^ 28 := g.wf_parts.2.2.2.2.2.1.2
theorem Geometry.pages_le (g : Geometry) : g.blocksInDevice * g.pagesPerBlock ≤ 2 ^ 32 := g.wf_parts.2.2.2.2.2.2.1
theorem Geometry.readIdValue_lt (g : Geometry) : g.readIdValue < 2 ^ 32 := g.wf_parts.2.2.2.2.2.2.2

/-! ### Sizes -/

/-- `ECC_SIZE = 3 * CODEWORDS_PER_PAGE` exactly (R7). -/
theorem Geometry.eccSize_eq (g : Geometry) : g.eccSize = 3 * g.codewordsPerPage := by
  have := g.pageDataSize_mod
  unfold Geometry.eccSize Geometry.codewordsPerPage
  omega

/-- A page is a whole number of codewords (R7). -/
theorem Geometry.pageDataSize_eq (g : Geometry) : g.pageDataSize = 256 * g.codewordsPerPage := by
  have := g.pageDataSize_mod
  unfold Geometry.codewordsPerPage
  omega

theorem Geometry.eccSize_add_oobFree (g : Geometry) : g.eccSize + g.oobFree = g.oobSize := by
  have := g.eccSize_le_oobSize
  unfold Geometry.oobFree
  omega

theorem Geometry.oobBase_add (g : Geometry) (pp : Nat) : g.oobBase pp + g.oobSize = g.pageBase pp + g.pageSize := by
  unfold Geometry.oobBase Geometry.pageSize
  omega

/-- A page of the device lies inside the medium (R61). -/
theorem Geometry.page_fits (g : Geometry) {pp : Nat} (h : pp < g.blocksInDevice * g.pagesPerBlock) :
    g.pageBase pp + g.pageSize ≤ g.mediumSize := by
  unfold Geometry.pageBase Geometry.mediumSize Geometry.blockSize
  calc pp * g.pageSize + g.pageSize = (pp + 1) * g.pageSize := by ring
    _ ≤ g.blocksInDevice * g.pagesPerBlock * g.pageSize := Nat.mul_le_mul_right _ h
    _ = _ := by ring

/-- A block of the device lies inside the medium (R61). -/
theorem Geometry.block_fits (g : Geometry) {b : Nat} (h : b < g.blocksInDevice) :
    g.blockBase b + g.blockSize ≤ g.mediumSize := by
  unfold Geometry.blockBase Geometry.mediumSize
  calc b * g.blockSize + g.blockSize = (b + 1) * g.blockSize := by ring
    _ ≤ g.blocksInDevice * g.blockSize := Nat.mul_le_mul_right _ h

/-- A page lies inside its block (R61). -/
theorem Geometry.page_in_block (g : Geometry) (pp : Nat) :
    g.blockBase (g.blockOf pp) ≤ g.pageBase pp ∧
      g.pageBase pp + g.pageSize ≤ g.blockBase (g.blockOf pp) + g.blockSize := by
  have h1 : pp / g.pagesPerBlock * g.pagesPerBlock ≤ pp := Nat.div_mul_le_self _ _
  have h2 : pp + 1 ≤ (pp / g.pagesPerBlock + 1) * g.pagesPerBlock := by
    have := Nat.lt_div_mul_add (a := pp) g.pagesPerBlock_pos
    rw [Nat.add_mul]; omega
  unfold Geometry.blockBase Geometry.blockOf Geometry.pageBase Geometry.blockSize
  constructor
  · calc _ = pp / g.pagesPerBlock * g.pagesPerBlock * g.pageSize := by ring
      _ ≤ _ := Nat.mul_le_mul_right _ h1
  · calc pp * g.pageSize + g.pageSize = (pp + 1) * g.pageSize := by ring
      _ ≤ (pp / g.pagesPerBlock + 1) * g.pagesPerBlock * g.pageSize := Nat.mul_le_mul_right _ h2
      _ = _ := by ring

/-! ### The translator -/

/-- What a successful translation is (R180, R181). -/
theorem Geometry.translate_eq_some_iff (g : Geometry) (lp pp pb : Nat) :
    g.translate lp = some (pp, pb) ↔
      pp = lp + g.blockStart * g.pagesPerBlock ∧ pb = g.blockOf pp ∧ pb < g.blockEnd := by
  unfold Geometry.translate Geometry.blockOf
  constructor
  · intro h
    dsimp only at h
    split at h
    · cases h
    · simp only [Option.some.injEq, Prod.mk.injEq] at h
      obtain ⟨rfl, rfl⟩ := h
      exact ⟨rfl, rfl, by omega⟩
  · rintro ⟨rfl, rfl, h⟩
    exact if_neg (by omega)

/-- A translated page is a page of the device. -/
theorem Geometry.translate_lt (g : Geometry) {lp pp pb : Nat} (h : g.translate lp = some (pp, pb)) :
    pp < g.blocksInDevice * g.pagesPerBlock := by
  obtain ⟨-, rfl, hlt⟩ := (g.translate_eq_some_iff lp pp pb).mp h
  have := (Nat.div_lt_iff_lt_mul g.pagesPerBlock_pos).mp hlt
  exact lt_of_lt_of_le this (Nat.mul_le_mul_right _ g.blockEnd_le)

/-- The mask of R185 is the remainder by the plane count, a power of two. -/
theorem Geometry.and_mask (g : Geometry) (b : Nat) : b &&& (g.planeNum - 1) = b % g.planeNum := by
  have h := g.planeNum_pow
  rw [← h]
  exact Nat.and_two_pow_sub_one_eq_mod b _

/-- `plane_ok` compares the blocks modulo the plane count (R185). -/
theorem Geometry.planeAligned_iff (g : Geometry) (fp tp : Nat) :
    g.planeAligned fp tp = true ↔ g.blockOf fp % g.planeNum = g.blockOf tp % g.planeNum := by
  unfold Geometry.planeAligned
  split
  · next h => simp [h, Nat.mod_one]
  · simp only [Geometry.and_mask, decide_eq_true_eq]

/-- The window's blocks are `BLOCK_START` to `BLOCK_END - 1` (R15). -/
theorem Geometry.mem_windowBlocks (g : Geometry) (b : Nat) :
    b ∈ g.windowBlocks ↔ g.blockStart ≤ b ∧ b < g.blockEnd := by
  have := g.blockStart_lt
  unfold Geometry.windowBlocks Geometry.blockTotal
  simp only [List.mem_map, List.mem_range]
  constructor
  · rintro ⟨k, hk, rfl⟩; omega
  · intro h; exact ⟨b - g.blockStart, by omega, by omega⟩

end Sys2Proof
end

