-- ==== Sys2Proof/Laws/Memory.lean ====
section
/-! SUPPORT. What the byte stores do: reading after writing, and that every operation keeps the canonical form. -/

namespace Sys2Proof.Machine

/-! ### `lookup` through the list operations -/

@[simp] theorem Memory.lookup_nil (a : Nat) : Memory.lookup [] a = none := rfl

theorem Memory.lookup_cons (k : Nat) (v : Byte) (m : Memory) (a : Nat) :
    Memory.lookup ((k, v) :: m) a = if k = a then some v else Memory.lookup m a := rfl

theorem Memory.lookup_append (m n : Memory) (a : Nat) :
    Memory.lookup (m ++ n) a = (Memory.lookup m a).or (Memory.lookup n a) := by
  induction m with
  | nil => simp
  | cons c m ih =>
    obtain ⟨k, v⟩ := c
    rw [List.cons_append, Memory.lookup_cons, Memory.lookup_cons, ih]
    split <;> simp

/-- A filter on addresses keeps or hides an address. -/
theorem Memory.lookup_filter_addr (m : Memory) (p : Nat → Bool) (a : Nat) :
    Memory.lookup (m.filter fun c => p c.1) a = if p a then Memory.lookup m a else none := by
  induction m with
  | nil => simp
  | cons c m ih =>
    obtain ⟨k, v⟩ := c
    by_cases hk : k = a
    · subst hk; by_cases hp : p k <;> simp [Memory.lookup_cons, hp, ih]
    · by_cases hp : p k <;> simp [Memory.lookup_cons, hp, ih, hk]

theorem Memory.lookup_eq_none_of_not_mem (m : Memory) (a : Nat) (h : ∀ c ∈ m, c.1 ≠ a) :
    Memory.lookup m a = none := by
  induction m with
  | nil => rfl
  | cons c m ih =>
    obtain ⟨k, v⟩ := c
    rw [Memory.lookup_cons, if_neg (h (k, v) (by simp)), ih fun c hc => h c (by simp [hc])]

/-- A listed byte is a cell of the list. -/
theorem Memory.mem_of_lookup {m : Memory} {a : Nat} {b : Byte} (h : Memory.lookup m a = some b) : (a, b) ∈ m := by
  induction m with
  | nil => simp at h
  | cons c m ih =>
    obtain ⟨k, v⟩ := c
    rw [Memory.lookup_cons] at h
    split at h
    · next hk => cases h; simp [hk]
    · simp [ih h]

/-- In a sorted store every cell is what its address looks up. -/
theorem Memory.lookup_of_mem {m : Memory} (hs : m.Sorted) {a : Nat} {b : Byte} (h : (a, b) ∈ m) :
    Memory.lookup m a = some b := by
  induction m with
  | nil => simp at h
  | cons c m ih =>
    obtain ⟨k, v⟩ := c
    rw [Memory.Sorted, List.pairwise_cons] at hs
    rw [Memory.lookup_cons]
    rcases List.mem_cons.mp h with heq | hm
    · cases heq; simp
    · have := hs.1 _ hm
      simp at this
      rw [if_neg (by omega), ih hs.2 hm]

/-! ### `cellsAt` -/

theorem Memory.cellsAt_addr (base : Nat) (bs : List Byte) :
    ∀ c ∈ Memory.cellsAt base bs, base ≤ c.1 ∧ c.1 < base + bs.length := by
  induction bs generalizing base with
  | nil => simp [Memory.cellsAt]
  | cons b bs ih =>
    intro c hc
    rcases List.mem_cons.mp hc with rfl | hc
    · simp
    · have := ih (base + 1) c hc
      simp only [List.length_cons]; omega

theorem Memory.cellsAt_sorted (base : Nat) (bs : List Byte) : (Memory.cellsAt base bs).Sorted := by
  induction bs generalizing base with
  | nil => simp [Memory.cellsAt]
  | cons b bs ih =>
    refine List.pairwise_cons.mpr ⟨fun c hc => ?_, ih (base + 1)⟩
    have := Memory.cellsAt_addr (base + 1) bs c hc
    show base < c.1
    omega

theorem Memory.lookup_cellsAt (base : Nat) (bs : List Byte) (a : Nat) :
    Memory.lookup (Memory.cellsAt base bs) a = if base ≤ a then bs[a - base]? else none := by
  induction bs generalizing base with
  | nil => simp [Memory.cellsAt]
  | cons b bs ih =>
    rw [Memory.cellsAt, Memory.lookup_cons, ih]
    by_cases h : base = a
    · subst h; simp
    · by_cases h2 : base ≤ a
      · obtain ⟨k, hk⟩ : ∃ k, a - base = k + 1 := ⟨a - base - 1, by omega⟩
        rw [if_neg h, if_pos (show base + 1 ≤ a by omega), if_pos h2, hk, show a - (base + 1) = k by omega]
        simp
      · rw [if_neg h, if_neg (by omega), if_neg h2]

/-- A filter on values hides a listed byte that fails it, in a sorted store. -/
theorem Memory.lookup_filter_val {m : Memory} (hs : m.Sorted) (p : Byte → Bool) (a : Nat) :
    Memory.lookup (m.filter fun c => p c.2) a = (Memory.lookup m a).filter p := by
  induction m with
  | nil => simp
  | cons c m ih =>
    obtain ⟨k, v⟩ := c
    rw [Memory.Sorted, List.pairwise_cons] at hs
    have ih := ih hs.2
    by_cases hk : k = a
    · subst hk
      have hno : Memory.lookup m k = none :=
        Memory.lookup_eq_none_of_not_mem m k fun c hc => by have := hs.1 c hc; simp at this; omega
      by_cases hp : p v <;> simp [Memory.lookup_cons, Option.filter, hp, ih, hno]
    · by_cases hp : p v <;> simp [Memory.lookup_cons, hp, ih, hk]

/-! ### `replace` -/

theorem Memory.lookup_replace (m : Memory) (base n : Nat) (new : Memory) (a : Nat)
    (hnew : ∀ c ∈ new, base ≤ c.1 ∧ c.1 < base + n) :
    (m.replace base n new).lookup a = if base ≤ a ∧ a < base + n then new.lookup a else m.lookup a := by
  have hout : ¬(base ≤ a ∧ a < base + n) → new.lookup a = none := fun h =>
    Memory.lookup_eq_none_of_not_mem new a fun c hc hca => h (hca ▸ hnew c hc)
  rw [Memory.replace, Memory.lookup_append, Memory.lookup_append,
    Memory.lookup_filter_addr m (fun k => decide (k < base)) a,
    Memory.lookup_filter_addr m (fun k => decide (base + n ≤ k)) a]
  by_cases h1 : a < base
  · rw [hout (by omega)]
    simp [h1, show ¬(base + n ≤ a) by omega, show ¬(base ≤ a ∧ a < base + n) by omega]
  · by_cases h2 : base + n ≤ a
    · rw [hout (by omega)]
      simp [h1, h2, show ¬(base ≤ a ∧ a < base + n) by omega]
    · simp [h1, h2, show base ≤ a ∧ a < base + n by omega]

theorem Memory.sorted_replace {m : Memory} (hs : m.Sorted) (base n : Nat) {new : Memory} (hnew : new.Sorted)
    (hin : ∀ c ∈ new, base ≤ c.1 ∧ c.1 < base + n) : (m.replace base n new).Sorted := by
  unfold Memory.replace Memory.Sorted
  rw [List.pairwise_append, List.pairwise_append]
  refine ⟨hs.filter _, ⟨hnew, hs.filter _, fun x hx y hy => ?_⟩, fun x hx y hy => ?_⟩
  · have := hin x hx; simp only [List.mem_filter, decide_eq_true_eq] at hy; omega
  · simp only [List.mem_filter, decide_eq_true_eq] at hx
    rcases List.mem_append.mp hy with hy | hy
    · have := hin y hy; omega
    · simp only [List.mem_filter, decide_eq_true_eq] at hy; omega

theorem Memory.mem_replace {m : Memory} {base n : Nat} {new : Memory} {c : Host.Cell}
    (h : c ∈ m.replace base n new) : c ∈ m ∨ c ∈ new := by
  simp only [Memory.replace, List.mem_append, List.mem_filter] at h
  tauto

/-! ### The medium -/

/-- What a write leaves at every address: the byte written, or what was there. -/
theorem Memory.read_write (m : Memory) (base : Nat) (bs : List Byte) (a : Nat) :
    (m.write base bs).read a = if base ≤ a then bs[a - base]?.getD (m.read a) else m.read a := by
  have hin : ∀ c ∈ (Memory.cellsAt base bs).filter (fun c => c.2 ≠ eraseValue),
      base ≤ c.1 ∧ c.1 < base + bs.length := fun c hc => Memory.cellsAt_addr base bs c (List.mem_filter.mp hc).1
  rw [Memory.read, Memory.write, Memory.lookup_replace _ _ _ _ _ hin,
    Memory.lookup_filter_val (Memory.cellsAt_sorted base bs) (fun v => decide (v ≠ eraseValue)),
    Memory.lookup_cellsAt]
  by_cases h1 : base ≤ a
  · by_cases h2 : a < base + bs.length
    · have hlt : a - base < bs.length := by omega
      rw [if_pos ⟨h1, h2⟩, if_pos h1, if_pos h1, List.getElem?_eq_getElem hlt]
      by_cases hv : bs[a - base] = eraseValue <;> simp [hv, Option.filter]
    · have hge : bs.length ≤ a - base := by omega
      rw [if_neg (by omega), if_pos h1, List.getElem?_eq_none hge]
      rfl
  · rw [if_neg (by omega), if_neg h1]
    rfl

theorem Memory.read_write_inside (m : Memory) (base : Nat) (bs : List Byte) (k : Nat) (h : k < bs.length) :
    (m.write base bs).read (base + k) = bs[k] := by
  rw [Memory.read_write, if_pos (by omega), show base + k - base = k by omega, List.getElem?_eq_getElem h]
  rfl

theorem Memory.read_write_outside (m : Memory) (base : Nat) (bs : List Byte) (a : Nat)
    (h : a < base ∨ base + bs.length ≤ a) : (m.write base bs).read a = m.read a := by
  rw [Memory.read_write]
  split
  · rw [List.getElem?_eq_none (by omega)]; rfl
  · rfl

/-- A write inside the medium keeps its canonical form. -/
theorem Memory.wf_write {m : Memory} {size : Nat} (h : m.wf size) (base : Nat) (bs : List Byte)
    (hfit : base + bs.length ≤ size) : (m.write base bs).wf size := by
  obtain ⟨hs, hb, hv⟩ := h
  have hin : ∀ c ∈ (Memory.cellsAt base bs).filter (fun c => c.2 ≠ eraseValue),
      base ≤ c.1 ∧ c.1 < base + bs.length := fun c hc => Memory.cellsAt_addr base bs c (List.mem_filter.mp hc).1
  refine ⟨Memory.sorted_replace hs _ _ ((Memory.cellsAt_sorted base bs).filter _) hin, fun c hc => ?_, fun c hc => ?_⟩
  · rcases Memory.mem_replace hc with hc | hc
    · exact hb c hc
    · have := hin c hc; omega
  · rcases Memory.mem_replace hc with hc | hc
    · exact hv c hc
    · simpa using (List.mem_filter.mp hc).2

/-- Two media in canonical form that read alike are the same data. -/
theorem Memory.ext_read {m n : Memory} {size : Nat} (hm : m.wf size) (hn : n.wf size)
    (h : ∀ a, m.read a = n.read a) : m = n := by
  have sub : ∀ {x y : Memory}, x.wf size → y.wf size → (∀ a, x.read a = y.read a) → ∀ c ∈ x, c ∈ y := by
    intro x y hx hy hxy c hc
    obtain ⟨a, b⟩ := c
    have h1 : x.read a = b := by rw [Memory.read, Memory.lookup_of_mem hx.1 hc]; rfl
    have hb : b ≠ eraseValue := hx.2.2 _ hc
    rw [hxy a, Memory.read] at h1
    cases hl : y.lookup a with
    | none => rw [hl] at h1; exact absurd h1.symm hb
    | some v =>
      rw [hl] at h1
      have : v = b := h1
      exact Memory.mem_of_lookup (this ▸ hl)
  have hperm : m.Perm n := by
    rw [List.perm_ext_iff_of_nodup]
    · exact fun c => ⟨sub hm hn h c, sub hn hm (fun a => (h a).symm) c⟩
    · exact hm.1.imp fun {x y} hxy heq => by rw [heq] at hxy; omega
    · exact hn.1.imp fun {x y} hxy heq => by rw [heq] at hxy; omega
  exact hperm.eq_of_pairwise (fun x y _ _ hxy hyx => by omega) hm.1 hn.1

theorem Memory.wf_nil (size : Nat) : Memory.wf [] size :=
  ⟨List.Pairwise.nil, (fun _ h => nomatch h), (fun _ h => nomatch h)⟩

theorem Memory.read_nil (a : Nat) : Memory.read [] a = eraseValue := rfl

theorem Memory.wf_ofImage (size : Nat) (image : List Byte) : (Memory.ofImage size image).wf size :=
  Memory.wf_write (Memory.wf_nil size) 0 _ (by simp)

/-- The first-time fill (R65): the image's byte below both bounds, the erase value elsewhere. -/
theorem Memory.read_ofImage (size : Nat) (image : List Byte) (a : Nat) :
    (Memory.ofImage size image).read a = if a < size then image[a]?.getD eraseValue else eraseValue := by
  rw [Memory.ofImage, Memory.read_write, if_pos (Nat.zero_le a), Memory.read_nil, Nat.sub_zero, List.getElem?_take]
  split <;> rfl

theorem Memory.wf_refill {m : Memory} {size : Nat} (h : m.wf size) : (m.refill size).wf size :=
  ⟨h.1.filter _, fun c hc => h.2.1 c (List.mem_filter.mp hc).1, fun c hc => h.2.2 c (List.mem_filter.mp hc).1⟩

/-- After the first reset the fill changes nothing (R65). -/
theorem Memory.refill_eq_self {m : Memory} {size : Nat} (h : m.Below size) : m.refill size = m :=
  List.filter_eq_self.mpr fun c hc => by simpa using h c hc

theorem Memory.read_refill (m : Memory) (size a : Nat) (h : a < size) : (m.refill size).read a = m.read a := by
  unfold Memory.read Memory.refill
  rw [Memory.lookup_filter_addr m (fun k => decide (k < size))]
  simp [h]

@[simp] theorem Memory.length_readBytes (m : Memory) (base n : Nat) : (m.readBytes base n).length = n := by
  simp [Memory.readBytes]

@[simp] theorem Memory.getElem_readBytes (m : Memory) (base n k : Nat) (h : k < (m.readBytes base n).length) :
    (m.readBytes base n)[k] = m.read (base + k) := by
  simp [Memory.readBytes]

/-- Two stores that read alike on a range give the same bytes there. -/
theorem Memory.readBytes_congr {m n : Memory} {base len : Nat}
    (h : ∀ k < len, m.read (base + k) = n.read (base + k)) : m.readBytes base len = n.readBytes base len := by
  unfold Memory.readBytes
  exact List.map_congr_left fun k hk => h k (List.mem_range.mp hk)

/-- Reading a range just written gives the bytes written. -/
theorem Memory.readBytes_write_same (m : Memory) (base : Nat) (bs : List Byte) :
    (m.write base bs).readBytes base bs.length = bs := by
  refine List.ext_getElem (by simp) fun k h1 h2 => ?_
  rw [Memory.getElem_readBytes, Memory.read_write_inside _ _ _ _ h2]

/-- Reading a range a write does not meet gives what was there. -/
theorem Memory.readBytes_write_disjoint (m : Memory) (base lo n : Nat) (bs : List Byte)
    (h : lo + n ≤ base ∨ base + bs.length ≤ lo) : (m.write base bs).readBytes lo n = m.readBytes lo n :=
  Memory.readBytes_congr fun k hk => Memory.read_write_outside _ _ _ _ (by omega)

@[simp] theorem length_erased (n : Nat) : (erased n).length = n := by simp [erased]

/-! ### The buffers -/

theorem Memory.bufByte_bufWrite (m : Memory) (lo : Nat) (bs : List Byte) (i : Nat) :
    (m.bufWrite lo bs).bufByte i = if lo ≤ i ∧ i < lo + bs.length then bs[i - lo]? else m.bufByte i := by
  unfold Memory.bufByte Memory.bufWrite
  rw [Memory.lookup_replace _ _ _ _ _ (Memory.cellsAt_addr lo bs), Memory.lookup_cellsAt]
  split
  · next h => rw [if_pos h.1]
  · rfl

theorem Memory.bufByte_bufWrite_inside (m : Memory) (lo : Nat) (bs : List Byte) (k : Nat) (h : k < bs.length) :
    (m.bufWrite lo bs).bufByte (lo + k) = some bs[k] := by
  rw [Memory.bufByte_bufWrite, if_pos (by omega), show lo + k - lo = k by omega, List.getElem?_eq_getElem h]

theorem Memory.bufByte_bufWrite_outside (m : Memory) (lo : Nat) (bs : List Byte) (i : Nat)
    (h : i < lo ∨ lo + bs.length ≤ i) : (m.bufWrite lo bs).bufByte i = m.bufByte i := by
  rw [Memory.bufByte_bufWrite, if_neg (by omega)]

/-- A write inside a buffer keeps its canonical form. -/
theorem Memory.bufWf_bufWrite {m : Memory} {size : Nat} (h : m.bufWf size) (lo : Nat) (bs : List Byte)
    (hfit : lo + bs.length ≤ size) : (m.bufWrite lo bs).bufWf size := by
  refine ⟨Memory.sorted_replace h.1 _ _ (Memory.cellsAt_sorted lo bs) (Memory.cellsAt_addr lo bs), fun c hc => ?_⟩
  rcases Memory.mem_replace hc with hc | hc
  · exact h.2 c hc
  · have := Memory.cellsAt_addr lo bs c hc; omega

theorem Memory.bufWf_nil (size : Nat) : Memory.bufWf [] size := ⟨List.Pairwise.nil, fun _ h => nomatch h⟩

/-- A slice is read exactly when every byte of it has a value, and then it is those values. -/
theorem Memory.bufSlice_eq_ok_iff (m : Memory) (lo n : Nat) (bs : List Byte) :
    m.bufSlice lo n = .ok bs ↔ bs.length = n ∧ ∀ k, (h : k < bs.length) → m.bufByte (lo + k) = some bs[k] := by
  induction n generalizing lo bs with
  | zero =>
    constructor
    · intro h; cases h; simp
    · rintro ⟨h, -⟩; rw [List.length_eq_zero_iff.mp h]; rfl
  | succ n ih =>
    rw [Memory.bufSlice]
    constructor
    · intro h
      split at h
      · cases h
      · next b hb =>
        split at h
        · cases h
        · next bs' hbs =>
          cases h
          obtain ⟨hlen, hall⟩ := (ih _ _).mp hbs
          refine ⟨by simp [hlen], fun k hk => ?_⟩
          cases k with
          | zero => simpa using hb
          | succ k => simpa [Nat.add_assoc, Nat.add_comm 1] using hall k (by simpa using hk)
    · rintro ⟨hlen, hall⟩
      cases bs with
      | nil => simp at hlen
      | cons b bs =>
        have hb : m.bufByte lo = some b := hall 0 (by simp)
        have hrest : m.bufSlice (lo + 1) n = .ok bs := by
          refine (ih _ _).mpr ⟨by simpa using hlen, fun k hk => ?_⟩
          rw [show lo + 1 + k = lo + (k + 1) by omega]
          exact hall (k + 1) (by simpa using hk)
        rw [hb, hrest]

/-- A slice is refused exactly at its first byte without a value. -/
theorem Memory.bufSlice_eq_error_iff (m : Memory) (lo n i : Nat) :
    m.bufSlice lo n = .error i ↔
      (lo ≤ i ∧ i < lo + n) ∧ m.bufByte i = none ∧ ∀ j, lo ≤ j → j < i → m.bufByte j ≠ none := by
  induction n generalizing lo with
  | zero =>
    simp only [Memory.bufSlice, reduceCtorEq, Nat.add_zero, false_iff]
    omega
  | succ n ih =>
    rw [Memory.bufSlice]
    cases hb : m.bufByte lo with
    | none =>
      simp only [Except.error.injEq]
      constructor
      · rintro rfl; exact ⟨by omega, hb, fun j h1 h2 => by omega⟩
      · rintro ⟨h1, h2, h3⟩
        by_contra hne
        exact h3 lo (by omega) (by omega) hb
    | some b =>
      have key : (match m.bufSlice (lo + 1) n with
          | .error i => (.error i : Except Nat (List Byte))
          | .ok bs => .ok (b :: bs)) = .error i ↔ m.bufSlice (lo + 1) n = .error i := by
        cases m.bufSlice (lo + 1) n <;> simp
      refine key.trans ((ih (lo + 1)).trans ?_)
      constructor
      · rintro ⟨h1, h2, h3⟩
        refine ⟨by omega, h2, fun j hj hji => ?_⟩
        rcases Nat.eq_or_lt_of_le hj with rfl | hj
        · simp [hb]
        · exact h3 j (by omega) hji
      · rintro ⟨h1, h2, h3⟩
        have hne : lo ≠ i := by rintro rfl; simp [hb] at h2
        exact ⟨by omega, h2, fun j hj hji => h3 j (by omega) hji⟩

theorem Memory.length_of_bufSlice {m : Memory} {lo n : Nat} {bs : List Byte} (h : m.bufSlice lo n = .ok bs) :
    bs.length = n := ((Memory.bufSlice_eq_ok_iff m lo n bs).mp h).1

/-- A slice of written bytes is read. -/
theorem Memory.bufSlice_ok_of_written {m : Memory} {lo n : Nat}
    (h : ∀ i, lo ≤ i → i < lo + n → m.bufByte i ≠ none) : ∃ bs, m.bufSlice lo n = .ok bs := by
  cases hs : m.bufSlice lo n with
  | ok bs => exact ⟨bs, rfl⟩
  | error i =>
    obtain ⟨h1, h2, -⟩ := (Memory.bufSlice_eq_error_iff m lo n i).mp hs
    exact absurd h2 (h i h1.1 h1.2)

end Sys2Proof.Machine
end

