-- ==== Sys2Proof/Laws/State.lean ====
section
/-! SUPPORT. One lemma per field of State per update, each true by rfl, so that no proof unfolds a record update; and
the field views of `reset`. -/

namespace Sys2Proof.Machine

/-! ### `State.complete` -/

@[simp] theorem State.complete_cfg (s : State) (c : StatusCode) : (s.complete c).cfg = s.cfg := rfl
@[simp] theorem State.complete_cmd (s : State) (c : StatusCode) : (s.complete c).cmd = s.cmd := rfl
@[simp] theorem State.complete_code (s : State) (c : StatusCode) : (s.complete c).code = c := rfl
@[simp] theorem State.complete_arg0 (s : State) (c : StatusCode) : (s.complete c).arg0 = s.arg0 := rfl
@[simp] theorem State.complete_arg1 (s : State) (c : StatusCode) : (s.complete c).arg1 = s.arg1 := rfl
@[simp] theorem State.complete_oobLen (s : State) (c : StatusCode) : (s.complete c).oobLen = s.oobLen := rfl
@[simp] theorem State.complete_result (s : State) (c : StatusCode) : (s.complete c).result = s.result := rfl
@[simp] theorem State.complete_dbuf (s : State) (c : StatusCode) : (s.complete c).dbuf = s.dbuf := rfl
@[simp] theorem State.complete_obuf (s : State) (c : StatusCode) : (s.complete c).obuf = s.obuf := rfl
@[simp] theorem State.complete_medium (s : State) (c : StatusCode) : (s.complete c).medium = s.medium := rfl
@[simp] theorem State.complete_latched (s : State) (c : StatusCode) : (s.complete c).latched = none := rfl
@[simp] theorem State.complete_faultMark (s : State) (c : StatusCode) : (s.complete c).faultMark = s.faultMark := rfl
@[simp] theorem State.complete_freeCount (s : State) (c : StatusCode) : (s.complete c).freeCount = s.freeCount := rfl
@[simp] theorem State.complete_pending (s : State) (c : StatusCode) : (s.complete c).pending = s.pending := rfl
@[simp] theorem State.complete_response (s : State) (c : StatusCode) : (s.complete c).response = s.response := rfl
@[simp] theorem State.complete_statusOwed (s : State) (c : StatusCode) : (s.complete c).statusOwed = s.statusOwed := rfl
@[simp] theorem State.complete_written (s : State) (c : StatusCode) : (s.complete c).written = s.written := rfl

/-! ### `State.raise` -/

@[simp] theorem State.raise_cfg (s : State) (f : Fault) : (s.raise f).cfg = s.cfg := rfl
@[simp] theorem State.raise_cmd (s : State) (f : Fault) : (s.raise f).cmd = s.cmd := rfl
@[simp] theorem State.raise_code (s : State) (f : Fault) : (s.raise f).code = s.code := rfl
@[simp] theorem State.raise_arg0 (s : State) (f : Fault) : (s.raise f).arg0 = s.arg0 := rfl
@[simp] theorem State.raise_arg1 (s : State) (f : Fault) : (s.raise f).arg1 = s.arg1 := rfl
@[simp] theorem State.raise_oobLen (s : State) (f : Fault) : (s.raise f).oobLen = s.oobLen := rfl
@[simp] theorem State.raise_result (s : State) (f : Fault) : (s.raise f).result = s.result := rfl
@[simp] theorem State.raise_dbuf (s : State) (f : Fault) : (s.raise f).dbuf = s.dbuf := rfl
@[simp] theorem State.raise_obuf (s : State) (f : Fault) : (s.raise f).obuf = s.obuf := rfl
@[simp] theorem State.raise_medium (s : State) (f : Fault) : (s.raise f).medium = s.medium := rfl
@[simp] theorem State.raise_latched (s : State) (f : Fault) : (s.raise f).latched = s.latched := rfl
@[simp] theorem State.raise_faultMark (s : State) (f : Fault) : (s.raise f).faultMark = some (s.faultMark.getD f) := rfl
@[simp] theorem State.raise_freeCount (s : State) (f : Fault) : (s.raise f).freeCount = s.freeCount := rfl
@[simp] theorem State.raise_pending (s : State) (f : Fault) : (s.raise f).pending = s.pending := rfl
@[simp] theorem State.raise_response (s : State) (f : Fault) : (s.raise f).response = s.response := rfl
@[simp] theorem State.raise_statusOwed (s : State) (f : Fault) : (s.raise f).statusOwed = s.statusOwed := rfl
@[simp] theorem State.raise_written (s : State) (f : Fault) : (s.raise f).written = s.written := rfl

/-! ### `State.abort` -/

@[simp] theorem State.abort_cfg (s : State) (f : Fault) : (s.abort f).cfg = s.cfg := rfl
@[simp] theorem State.abort_cmd (s : State) (f : Fault) : (s.abort f).cmd = s.cmd := rfl
@[simp] theorem State.abort_code (s : State) (f : Fault) : (s.abort f).code = s.code := rfl
@[simp] theorem State.abort_arg0 (s : State) (f : Fault) : (s.abort f).arg0 = s.arg0 := rfl
@[simp] theorem State.abort_arg1 (s : State) (f : Fault) : (s.abort f).arg1 = s.arg1 := rfl
@[simp] theorem State.abort_oobLen (s : State) (f : Fault) : (s.abort f).oobLen = s.oobLen := rfl
@[simp] theorem State.abort_result (s : State) (f : Fault) : (s.abort f).result = s.result := rfl
@[simp] theorem State.abort_dbuf (s : State) (f : Fault) : (s.abort f).dbuf = s.dbuf := rfl
@[simp] theorem State.abort_obuf (s : State) (f : Fault) : (s.abort f).obuf = s.obuf := rfl
@[simp] theorem State.abort_medium (s : State) (f : Fault) : (s.abort f).medium = s.medium := rfl
@[simp] theorem State.abort_latched (s : State) (f : Fault) : (s.abort f).latched = none := rfl
@[simp] theorem State.abort_faultMark (s : State) (f : Fault) : (s.abort f).faultMark = some (s.faultMark.getD f) := rfl
@[simp] theorem State.abort_freeCount (s : State) (f : Fault) : (s.abort f).freeCount = s.freeCount := rfl
@[simp] theorem State.abort_pending (s : State) (f : Fault) : (s.abort f).pending = s.pending := rfl
@[simp] theorem State.abort_response (s : State) (f : Fault) : (s.abort f).response = s.response := rfl
@[simp] theorem State.abort_statusOwed (s : State) (f : Fault) : (s.abort f).statusOwed = s.statusOwed := rfl
@[simp] theorem State.abort_written (s : State) (f : Fault) : (s.abort f).written = s.written := rfl

/-! ### `State.setResult` -/

@[simp] theorem State.setResult_cfg (s : State) (v : Word) : (s.setResult v).cfg = s.cfg := rfl
@[simp] theorem State.setResult_cmd (s : State) (v : Word) : (s.setResult v).cmd = s.cmd := rfl
@[simp] theorem State.setResult_code (s : State) (v : Word) : (s.setResult v).code = s.code := rfl
@[simp] theorem State.setResult_arg0 (s : State) (v : Word) : (s.setResult v).arg0 = s.arg0 := rfl
@[simp] theorem State.setResult_arg1 (s : State) (v : Word) : (s.setResult v).arg1 = s.arg1 := rfl
@[simp] theorem State.setResult_oobLen (s : State) (v : Word) : (s.setResult v).oobLen = s.oobLen := rfl
@[simp] theorem State.setResult_result (s : State) (v : Word) : (s.setResult v).result = v := rfl
@[simp] theorem State.setResult_dbuf (s : State) (v : Word) : (s.setResult v).dbuf = s.dbuf := rfl
@[simp] theorem State.setResult_obuf (s : State) (v : Word) : (s.setResult v).obuf = s.obuf := rfl
@[simp] theorem State.setResult_medium (s : State) (v : Word) : (s.setResult v).medium = s.medium := rfl
@[simp] theorem State.setResult_latched (s : State) (v : Word) : (s.setResult v).latched = s.latched := rfl
@[simp] theorem State.setResult_faultMark (s : State) (v : Word) : (s.setResult v).faultMark = s.faultMark := rfl
@[simp] theorem State.setResult_freeCount (s : State) (v : Word) : (s.setResult v).freeCount = s.freeCount := rfl
@[simp] theorem State.setResult_pending (s : State) (v : Word) : (s.setResult v).pending = s.pending := rfl
@[simp] theorem State.setResult_response (s : State) (v : Word) : (s.setResult v).response = s.response := rfl
@[simp] theorem State.setResult_statusOwed (s : State) (v : Word) : (s.setResult v).statusOwed = s.statusOwed := rfl
@[simp] theorem State.setResult_written (s : State) (v : Word) : (s.setResult v).written = s.written := rfl

/-! ### `State.startCommand` -/

@[simp] theorem State.startCommand_cfg (s : State) (w : Word) : (s.startCommand w).cfg = s.cfg := rfl
@[simp] theorem State.startCommand_cmd (s : State) (w : Word) : (s.startCommand w).cmd = w := rfl
@[simp] theorem State.startCommand_code (s : State) (w : Word) : (s.startCommand w).code = s.code := rfl
@[simp] theorem State.startCommand_arg0 (s : State) (w : Word) : (s.startCommand w).arg0 = s.arg0 := rfl
@[simp] theorem State.startCommand_arg1 (s : State) (w : Word) : (s.startCommand w).arg1 = s.arg1 := rfl
@[simp] theorem State.startCommand_oobLen (s : State) (w : Word) : (s.startCommand w).oobLen = s.oobLen := rfl
@[simp] theorem State.startCommand_result (s : State) (w : Word) : (s.startCommand w).result = s.result := rfl
@[simp] theorem State.startCommand_dbuf (s : State) (w : Word) : (s.startCommand w).dbuf = s.dbuf := rfl
@[simp] theorem State.startCommand_obuf (s : State) (w : Word) : (s.startCommand w).obuf = s.obuf := rfl
@[simp] theorem State.startCommand_medium (s : State) (w : Word) : (s.startCommand w).medium = s.medium := rfl
@[simp] theorem State.startCommand_latched (s : State) (w : Word) : (s.startCommand w).latched = some ⟨w, s.arg0, s.arg1, s.oobLen⟩ := rfl
@[simp] theorem State.startCommand_faultMark (s : State) (w : Word) : (s.startCommand w).faultMark = s.faultMark := rfl
@[simp] theorem State.startCommand_freeCount (s : State) (w : Word) : (s.startCommand w).freeCount = s.freeCount := rfl
@[simp] theorem State.startCommand_pending (s : State) (w : Word) : (s.startCommand w).pending = s.pending := rfl
@[simp] theorem State.startCommand_response (s : State) (w : Word) : (s.startCommand w).response = s.response := rfl
@[simp] theorem State.startCommand_statusOwed (s : State) (w : Word) : (s.startCommand w).statusOwed = true := rfl
@[simp] theorem State.startCommand_written (s : State) (w : Word) : (s.startCommand w).written = s.written := rfl

/-! ### `State.memWrite` -/

@[simp] theorem State.memWrite_cfg (s : State) (base : Nat) (bs : List Byte) : (s.memWrite base bs).cfg = s.cfg := rfl
@[simp] theorem State.memWrite_cmd (s : State) (base : Nat) (bs : List Byte) : (s.memWrite base bs).cmd = s.cmd := rfl
@[simp] theorem State.memWrite_code (s : State) (base : Nat) (bs : List Byte) : (s.memWrite base bs).code = s.code := rfl
@[simp] theorem State.memWrite_arg0 (s : State) (base : Nat) (bs : List Byte) : (s.memWrite base bs).arg0 = s.arg0 := rfl
@[simp] theorem State.memWrite_arg1 (s : State) (base : Nat) (bs : List Byte) : (s.memWrite base bs).arg1 = s.arg1 := rfl
@[simp] theorem State.memWrite_oobLen (s : State) (base : Nat) (bs : List Byte) : (s.memWrite base bs).oobLen = s.oobLen := rfl
@[simp] theorem State.memWrite_result (s : State) (base : Nat) (bs : List Byte) : (s.memWrite base bs).result = s.result := rfl
@[simp] theorem State.memWrite_dbuf (s : State) (base : Nat) (bs : List Byte) : (s.memWrite base bs).dbuf = s.dbuf := rfl
@[simp] theorem State.memWrite_obuf (s : State) (base : Nat) (bs : List Byte) : (s.memWrite base bs).obuf = s.obuf := rfl
@[simp] theorem State.memWrite_medium (s : State) (base : Nat) (bs : List Byte) : (s.memWrite base bs).medium = s.medium.write base bs := rfl
@[simp] theorem State.memWrite_latched (s : State) (base : Nat) (bs : List Byte) : (s.memWrite base bs).latched = s.latched := rfl
@[simp] theorem State.memWrite_faultMark (s : State) (base : Nat) (bs : List Byte) : (s.memWrite base bs).faultMark = s.faultMark := rfl
@[simp] theorem State.memWrite_freeCount (s : State) (base : Nat) (bs : List Byte) : (s.memWrite base bs).freeCount = s.freeCount := rfl
@[simp] theorem State.memWrite_pending (s : State) (base : Nat) (bs : List Byte) : (s.memWrite base bs).pending = s.pending := rfl
@[simp] theorem State.memWrite_response (s : State) (base : Nat) (bs : List Byte) : (s.memWrite base bs).response = s.response := rfl
@[simp] theorem State.memWrite_statusOwed (s : State) (base : Nat) (bs : List Byte) : (s.memWrite base bs).statusOwed = s.statusOwed := rfl
@[simp] theorem State.memWrite_written (s : State) (base : Nat) (bs : List Byte) : (s.memWrite base bs).written = s.written := rfl

/-! ### `State.respond` -/

@[simp] theorem State.respond_cfg (s : State) (r : Response) : (s.respond r).cfg = s.cfg := rfl
@[simp] theorem State.respond_cmd (s : State) (r : Response) : (s.respond r).cmd = s.cmd := rfl
@[simp] theorem State.respond_code (s : State) (r : Response) : (s.respond r).code = s.code := rfl
@[simp] theorem State.respond_arg0 (s : State) (r : Response) : (s.respond r).arg0 = s.arg0 := rfl
@[simp] theorem State.respond_arg1 (s : State) (r : Response) : (s.respond r).arg1 = s.arg1 := rfl
@[simp] theorem State.respond_oobLen (s : State) (r : Response) : (s.respond r).oobLen = s.oobLen := rfl
@[simp] theorem State.respond_result (s : State) (r : Response) : (s.respond r).result = s.result := rfl
@[simp] theorem State.respond_dbuf (s : State) (r : Response) : (s.respond r).dbuf = s.dbuf := rfl
@[simp] theorem State.respond_obuf (s : State) (r : Response) : (s.respond r).obuf = s.obuf := rfl
@[simp] theorem State.respond_medium (s : State) (r : Response) : (s.respond r).medium = s.medium := rfl
@[simp] theorem State.respond_latched (s : State) (r : Response) : (s.respond r).latched = s.latched := rfl
@[simp] theorem State.respond_faultMark (s : State) (r : Response) : (s.respond r).faultMark = s.faultMark := rfl
@[simp] theorem State.respond_freeCount (s : State) (r : Response) : (s.respond r).freeCount = s.freeCount := rfl
@[simp] theorem State.respond_pending (s : State) (r : Response) : (s.respond r).pending = s.pending := rfl
@[simp] theorem State.respond_response (s : State) (r : Response) : (s.respond r).response = r := rfl
@[simp] theorem State.respond_statusOwed (s : State) (r : Response) : (s.respond r).statusOwed = s.statusOwed := rfl
@[simp] theorem State.respond_written (s : State) (r : Response) : (s.respond r).written = s.written := rfl

/-! ### `State.settle` -/

@[simp] theorem State.settle_cfg (s : State) (r : HostReg) : (s.settle r).cfg = s.cfg := by cases r <;> rfl
@[simp] theorem State.settle_cmd (s : State) (r : HostReg) : (s.settle r).cmd = s.cmd := by cases r <;> rfl
@[simp] theorem State.settle_code (s : State) (r : HostReg) : (s.settle r).code = s.code := by cases r <;> rfl
@[simp] theorem State.settle_arg0 (s : State) (r : HostReg) : (s.settle r).arg0 = s.arg0 := by cases r <;> rfl
@[simp] theorem State.settle_arg1 (s : State) (r : HostReg) : (s.settle r).arg1 = s.arg1 := by cases r <;> rfl
@[simp] theorem State.settle_oobLen (s : State) (r : HostReg) : (s.settle r).oobLen = s.oobLen := by cases r <;> rfl
@[simp] theorem State.settle_result (s : State) (r : HostReg) : (s.settle r).result = s.result := by cases r <;> rfl
@[simp] theorem State.settle_dbuf (s : State) (r : HostReg) : (s.settle r).dbuf = s.dbuf := by cases r <;> rfl
@[simp] theorem State.settle_obuf (s : State) (r : HostReg) : (s.settle r).obuf = s.obuf := by cases r <;> rfl
@[simp] theorem State.settle_medium (s : State) (r : HostReg) : (s.settle r).medium = s.medium := by cases r <;> rfl
@[simp] theorem State.settle_latched (s : State) (r : HostReg) : (s.settle r).latched = s.latched := by cases r <;> rfl
@[simp] theorem State.settle_faultMark (s : State) (r : HostReg) : (s.settle r).faultMark = s.faultMark := by cases r <;> rfl
@[simp] theorem State.settle_freeCount (s : State) (r : HostReg) : (s.settle r).freeCount = s.freeCount := by cases r <;> rfl
@[simp] theorem State.settle_pending (s : State) (r : HostReg) : (s.settle r).pending = s.pending := by cases r <;> rfl
@[simp] theorem State.settle_response (s : State) (r : HostReg) : (s.settle r).response = s.response := by cases r <;> rfl
@[simp] theorem State.settle_statusOwed (s : State) : (s.settle .status).statusOwed = (s.statusOwed && s.busy) := rfl
@[simp] theorem State.settle_written (s : State) (r : HostReg) : (s.settle r).written = s.written := by cases r <;> rfl

theorem State.settle_of_ne_status (s : State) (r : HostReg) (h : r ≠ .status) : s.settle r = s := by
  cases r <;> first | rfl | exact absurd rfl h

/-- The host's duty stays as it is while the command runs, and is done once it has ended. -/
theorem State.settle_status_of_idle (s : State) (h : s.busy = false) :
    s.settle .status = { s with statusOwed := false } := by
  simp [State.settle, h]

theorem State.settle_status_of_busy (s : State) (h : s.busy = true) : s.settle .status = s := by
  simp [State.settle, h]

/-! ### `State.setPending` -/

@[simp] theorem State.setPending_cfg (s : State) (rest : List Move) : (s.setPending rest).cfg = s.cfg := rfl
@[simp] theorem State.setPending_cmd (s : State) (rest : List Move) : (s.setPending rest).cmd = s.cmd := rfl
@[simp] theorem State.setPending_code (s : State) (rest : List Move) : (s.setPending rest).code = s.code := rfl
@[simp] theorem State.setPending_arg0 (s : State) (rest : List Move) : (s.setPending rest).arg0 = s.arg0 := rfl
@[simp] theorem State.setPending_arg1 (s : State) (rest : List Move) : (s.setPending rest).arg1 = s.arg1 := rfl
@[simp] theorem State.setPending_oobLen (s : State) (rest : List Move) : (s.setPending rest).oobLen = s.oobLen := rfl
@[simp] theorem State.setPending_result (s : State) (rest : List Move) : (s.setPending rest).result = s.result := rfl
@[simp] theorem State.setPending_dbuf (s : State) (rest : List Move) : (s.setPending rest).dbuf = s.dbuf := rfl
@[simp] theorem State.setPending_obuf (s : State) (rest : List Move) : (s.setPending rest).obuf = s.obuf := rfl
@[simp] theorem State.setPending_medium (s : State) (rest : List Move) : (s.setPending rest).medium = s.medium := rfl
@[simp] theorem State.setPending_latched (s : State) (rest : List Move) : (s.setPending rest).latched = s.latched := rfl
@[simp] theorem State.setPending_faultMark (s : State) (rest : List Move) : (s.setPending rest).faultMark = s.faultMark := rfl
@[simp] theorem State.setPending_freeCount (s : State) (rest : List Move) : (s.setPending rest).freeCount = s.freeCount := rfl
@[simp] theorem State.setPending_pending (s : State) (rest : List Move) : (s.setPending rest).pending = rest := rfl
@[simp] theorem State.setPending_response (s : State) (rest : List Move) : (s.setPending rest).response = s.response := rfl
@[simp] theorem State.setPending_statusOwed (s : State) (rest : List Move) : (s.setPending rest).statusOwed = s.statusOwed := rfl
@[simp] theorem State.setPending_written (s : State) (rest : List Move) : (s.setPending rest).written = s.written := rfl

/-! ### `State.scramble` -/

@[simp] theorem State.scramble_cfg (s : State) (r : Range) : (s.scramble r).cfg = s.cfg := rfl
@[simp] theorem State.scramble_cmd (s : State) (r : Range) : (s.scramble r).cmd = s.cmd := rfl
@[simp] theorem State.scramble_code (s : State) (r : Range) : (s.scramble r).code = s.code := rfl
@[simp] theorem State.scramble_arg0 (s : State) (r : Range) : (s.scramble r).arg0 = s.arg0 := rfl
@[simp] theorem State.scramble_arg1 (s : State) (r : Range) : (s.scramble r).arg1 = s.arg1 := rfl
@[simp] theorem State.scramble_oobLen (s : State) (r : Range) : (s.scramble r).oobLen = s.oobLen := rfl
@[simp] theorem State.scramble_result (s : State) (r : Range) : (s.scramble r).result = s.result := rfl
@[simp] theorem State.scramble_dbuf (s : State) (r : Range) : (s.scramble r).dbuf = s.dbuf := rfl
@[simp] theorem State.scramble_obuf (s : State) (r : Range) : (s.scramble r).obuf = s.obuf := rfl
@[simp] theorem State.scramble_medium (s : State) (r : Range) : (s.scramble r).medium = s.medium.write r.1 (freeBytes s.freeCount r.2) := rfl
@[simp] theorem State.scramble_latched (s : State) (r : Range) : (s.scramble r).latched = s.latched := rfl
@[simp] theorem State.scramble_faultMark (s : State) (r : Range) : (s.scramble r).faultMark = s.faultMark := rfl
@[simp] theorem State.scramble_freeCount (s : State) (r : Range) : (s.scramble r).freeCount = s.freeCount + r.2 := rfl
@[simp] theorem State.scramble_pending (s : State) (r : Range) : (s.scramble r).pending = s.pending := rfl
@[simp] theorem State.scramble_response (s : State) (r : Range) : (s.scramble r).response = s.response := rfl
@[simp] theorem State.scramble_statusOwed (s : State) (r : Range) : (s.scramble r).statusOwed = s.statusOwed := rfl
@[simp] theorem State.scramble_written (s : State) (r : Range) : (s.scramble r).written = s.written := rfl

/-! ### `State.resetFields` -/

@[simp] theorem State.resetFields_cfg (s : State) : (s.resetFields).cfg = s.cfg := rfl
@[simp] theorem State.resetFields_cmd (s : State) : (s.resetFields).cmd = 0 := rfl
@[simp] theorem State.resetFields_code (s : State) : (s.resetFields).code = .ok := rfl
@[simp] theorem State.resetFields_arg0 (s : State) : (s.resetFields).arg0 = 0 := rfl
@[simp] theorem State.resetFields_arg1 (s : State) : (s.resetFields).arg1 = 0 := rfl
@[simp] theorem State.resetFields_oobLen (s : State) : (s.resetFields).oobLen = 0 := rfl
@[simp] theorem State.resetFields_result (s : State) : (s.resetFields).result = 0 := rfl
@[simp] theorem State.resetFields_dbuf (s : State) : (s.resetFields).dbuf = [] := rfl
@[simp] theorem State.resetFields_obuf (s : State) : (s.resetFields).obuf = [] := rfl
@[simp] theorem State.resetFields_medium (s : State) : (s.resetFields).medium = s.medium.refill s.cfg.mediumSize := rfl
@[simp] theorem State.resetFields_latched (s : State) : (s.resetFields).latched = none := rfl
@[simp] theorem State.resetFields_faultMark (s : State) : (s.resetFields).faultMark = s.faultMark := rfl
@[simp] theorem State.resetFields_freeCount (s : State) : (s.resetFields).freeCount = s.freeCount := rfl
@[simp] theorem State.resetFields_pending (s : State) : (s.resetFields).pending = s.pending := rfl
@[simp] theorem State.resetFields_response (s : State) : (s.resetFields).response = s.response := rfl
@[simp] theorem State.resetFields_statusOwed (s : State) : (s.resetFields).statusOwed = false := rfl
@[simp] theorem State.resetFields_written (s : State) : (s.resetFields).written = ⟨false, false, false⟩ := rfl

/-! ### `State.bufWrite` -/

@[simp] theorem State.bufWrite_cfg (s : State) (b : BufferName) (lo : Nat) (bs : List Byte) : (s.bufWrite b lo bs).cfg = s.cfg := rfl
@[simp] theorem State.bufWrite_cmd (s : State) (b : BufferName) (lo : Nat) (bs : List Byte) : (s.bufWrite b lo bs).cmd = s.cmd := rfl
@[simp] theorem State.bufWrite_code (s : State) (b : BufferName) (lo : Nat) (bs : List Byte) : (s.bufWrite b lo bs).code = s.code := rfl
@[simp] theorem State.bufWrite_arg0 (s : State) (b : BufferName) (lo : Nat) (bs : List Byte) : (s.bufWrite b lo bs).arg0 = s.arg0 := rfl
@[simp] theorem State.bufWrite_arg1 (s : State) (b : BufferName) (lo : Nat) (bs : List Byte) : (s.bufWrite b lo bs).arg1 = s.arg1 := rfl
@[simp] theorem State.bufWrite_oobLen (s : State) (b : BufferName) (lo : Nat) (bs : List Byte) : (s.bufWrite b lo bs).oobLen = s.oobLen := rfl
@[simp] theorem State.bufWrite_result (s : State) (b : BufferName) (lo : Nat) (bs : List Byte) : (s.bufWrite b lo bs).result = s.result := rfl
@[simp] theorem State.bufWrite_medium (s : State) (b : BufferName) (lo : Nat) (bs : List Byte) : (s.bufWrite b lo bs).medium = s.medium := rfl
@[simp] theorem State.bufWrite_latched (s : State) (b : BufferName) (lo : Nat) (bs : List Byte) : (s.bufWrite b lo bs).latched = s.latched := rfl
@[simp] theorem State.bufWrite_faultMark (s : State) (b : BufferName) (lo : Nat) (bs : List Byte) : (s.bufWrite b lo bs).faultMark = s.faultMark := rfl
@[simp] theorem State.bufWrite_freeCount (s : State) (b : BufferName) (lo : Nat) (bs : List Byte) : (s.bufWrite b lo bs).freeCount = s.freeCount := rfl
@[simp] theorem State.bufWrite_pending (s : State) (b : BufferName) (lo : Nat) (bs : List Byte) : (s.bufWrite b lo bs).pending = s.pending := rfl
@[simp] theorem State.bufWrite_response (s : State) (b : BufferName) (lo : Nat) (bs : List Byte) : (s.bufWrite b lo bs).response = s.response := rfl
@[simp] theorem State.bufWrite_statusOwed (s : State) (b : BufferName) (lo : Nat) (bs : List Byte) : (s.bufWrite b lo bs).statusOwed = s.statusOwed := rfl
@[simp] theorem State.bufWrite_written (s : State) (b : BufferName) (lo : Nat) (bs : List Byte) : (s.bufWrite b lo bs).written = s.written := rfl

@[simp] theorem State.bufWrite_dbuf_same (s : State) (lo : Nat) (bs : List Byte) :
    (s.bufWrite .dbuf lo bs).dbuf = s.dbuf.bufWrite lo bs := rfl
@[simp] theorem State.bufWrite_dbuf_other (s : State) (lo : Nat) (bs : List Byte) :
    (s.bufWrite .obuf lo bs).dbuf = s.dbuf := rfl
@[simp] theorem State.bufWrite_obuf_same (s : State) (lo : Nat) (bs : List Byte) :
    (s.bufWrite .obuf lo bs).obuf = s.obuf.bufWrite lo bs := rfl
@[simp] theorem State.bufWrite_obuf_other (s : State) (lo : Nat) (bs : List Byte) :
    (s.bufWrite .dbuf lo bs).obuf = s.obuf := rfl

/-! ### `State.stopWith` -/

@[simp] theorem State.stopWith_cfg (s : State) (e : Stop) : (s.stopWith e).cfg = s.cfg := by cases e <;> rfl
@[simp] theorem State.stopWith_cmd (s : State) (e : Stop) : (s.stopWith e).cmd = s.cmd := by cases e <;> rfl
@[simp] theorem State.stopWith_arg0 (s : State) (e : Stop) : (s.stopWith e).arg0 = s.arg0 := by cases e <;> rfl
@[simp] theorem State.stopWith_arg1 (s : State) (e : Stop) : (s.stopWith e).arg1 = s.arg1 := by cases e <;> rfl
@[simp] theorem State.stopWith_oobLen (s : State) (e : Stop) : (s.stopWith e).oobLen = s.oobLen := by cases e <;> rfl
@[simp] theorem State.stopWith_result (s : State) (e : Stop) : (s.stopWith e).result = s.result := by cases e <;> rfl
@[simp] theorem State.stopWith_dbuf (s : State) (e : Stop) : (s.stopWith e).dbuf = s.dbuf := by cases e <;> rfl
@[simp] theorem State.stopWith_obuf (s : State) (e : Stop) : (s.stopWith e).obuf = s.obuf := by cases e <;> rfl
@[simp] theorem State.stopWith_medium (s : State) (e : Stop) : (s.stopWith e).medium = s.medium := by cases e <;> rfl
@[simp] theorem State.stopWith_freeCount (s : State) (e : Stop) : (s.stopWith e).freeCount = s.freeCount := by cases e <;> rfl
@[simp] theorem State.stopWith_pending (s : State) (e : Stop) : (s.stopWith e).pending = s.pending := by cases e <;> rfl
@[simp] theorem State.stopWith_response (s : State) (e : Stop) : (s.stopWith e).response = s.response := by cases e <;> rfl
@[simp] theorem State.stopWith_statusOwed (s : State) (e : Stop) : (s.stopWith e).statusOwed = s.statusOwed := by cases e <;> rfl
@[simp] theorem State.stopWith_written (s : State) (e : Stop) : (s.stopWith e).written = s.written := by cases e <;> rfl
@[simp] theorem State.stopWith_latched (s : State) (e : Stop) : (s.stopWith e).latched = none := by cases e <;> rfl
@[simp] theorem State.stopWith_status (s : State) (c : StatusCode) : s.stopWith (.status c) = s.complete c := rfl
@[simp] theorem State.stopWith_fault (s : State) (f : Fault) : s.stopWith (.fault f) = s.abort f := rfl

/-! ### The busy flag -/

@[simp] theorem State.busy_complete (s : State) (c : StatusCode) : (s.complete c).busy = false := rfl
@[simp] theorem State.busy_abort (s : State) (f : Fault) : (s.abort f).busy = false := rfl
@[simp] theorem State.busy_startCommand (s : State) (w : Word) : (s.startCommand w).busy = true := rfl
@[simp] theorem State.busy_setPending (s : State) (rest : List Move) : (s.setPending rest).busy = s.busy := rfl
@[simp] theorem State.busy_respond (s : State) (r : Response) : (s.respond r).busy = s.busy := rfl
@[simp] theorem State.busy_settle (s : State) (r : HostReg) : (s.settle r).busy = s.busy := by cases r <;> rfl
@[simp] theorem State.busy_raise (s : State) (f : Fault) : (s.raise f).busy = s.busy := rfl
@[simp] theorem State.busy_resetFields (s : State) : s.resetFields.busy = false := rfl

theorem State.busy_eq_false_iff (s : State) : s.busy = false ↔ s.latched = none := by
  simp [State.busy]

/-! ### `State.checkCompletion` -/

/-- The check of the host's duty leaves the state, or raises the mark for the access. -/
theorem State.checkCompletion_cases (s : State) (a : Access) (op : PortOp) :
    s.checkCompletion a op = s ∨ (s.statusOwed = true ∧ op.allowedWhileBusy = false ∧
      s.checkCompletion a op = s.raise (.hostProtocolViolation a)) := by
  unfold State.checkCompletion
  cases h1 : s.statusOwed <;> cases h2 : op.allowedWhileBusy <;> simp

@[simp] theorem State.checkCompletion_cfg (s : State) (a : Access) (op : PortOp) : (s.checkCompletion a op).cfg = s.cfg := by
  rcases s.checkCompletion_cases a op with h | ⟨-, -, h⟩ <;> simp [h]
@[simp] theorem State.checkCompletion_cmd (s : State) (a : Access) (op : PortOp) : (s.checkCompletion a op).cmd = s.cmd := by
  rcases s.checkCompletion_cases a op with h | ⟨-, -, h⟩ <;> simp [h]
@[simp] theorem State.checkCompletion_code (s : State) (a : Access) (op : PortOp) : (s.checkCompletion a op).code = s.code := by
  rcases s.checkCompletion_cases a op with h | ⟨-, -, h⟩ <;> simp [h]
@[simp] theorem State.checkCompletion_arg0 (s : State) (a : Access) (op : PortOp) : (s.checkCompletion a op).arg0 = s.arg0 := by
  rcases s.checkCompletion_cases a op with h | ⟨-, -, h⟩ <;> simp [h]
@[simp] theorem State.checkCompletion_arg1 (s : State) (a : Access) (op : PortOp) : (s.checkCompletion a op).arg1 = s.arg1 := by
  rcases s.checkCompletion_cases a op with h | ⟨-, -, h⟩ <;> simp [h]
@[simp] theorem State.checkCompletion_oobLen (s : State) (a : Access) (op : PortOp) : (s.checkCompletion a op).oobLen = s.oobLen := by
  rcases s.checkCompletion_cases a op with h | ⟨-, -, h⟩ <;> simp [h]
@[simp] theorem State.checkCompletion_result (s : State) (a : Access) (op : PortOp) : (s.checkCompletion a op).result = s.result := by
  rcases s.checkCompletion_cases a op with h | ⟨-, -, h⟩ <;> simp [h]
@[simp] theorem State.checkCompletion_dbuf (s : State) (a : Access) (op : PortOp) : (s.checkCompletion a op).dbuf = s.dbuf := by
  rcases s.checkCompletion_cases a op with h | ⟨-, -, h⟩ <;> simp [h]
@[simp] theorem State.checkCompletion_obuf (s : State) (a : Access) (op : PortOp) : (s.checkCompletion a op).obuf = s.obuf := by
  rcases s.checkCompletion_cases a op with h | ⟨-, -, h⟩ <;> simp [h]
@[simp] theorem State.checkCompletion_medium (s : State) (a : Access) (op : PortOp) : (s.checkCompletion a op).medium = s.medium := by
  rcases s.checkCompletion_cases a op with h | ⟨-, -, h⟩ <;> simp [h]
@[simp] theorem State.checkCompletion_latched (s : State) (a : Access) (op : PortOp) : (s.checkCompletion a op).latched = s.latched := by
  rcases s.checkCompletion_cases a op with h | ⟨-, -, h⟩ <;> simp [h]
@[simp] theorem State.checkCompletion_freeCount (s : State) (a : Access) (op : PortOp) : (s.checkCompletion a op).freeCount = s.freeCount := by
  rcases s.checkCompletion_cases a op with h | ⟨-, -, h⟩ <;> simp [h]
@[simp] theorem State.checkCompletion_pending (s : State) (a : Access) (op : PortOp) : (s.checkCompletion a op).pending = s.pending := by
  rcases s.checkCompletion_cases a op with h | ⟨-, -, h⟩ <;> simp [h]
@[simp] theorem State.checkCompletion_response (s : State) (a : Access) (op : PortOp) : (s.checkCompletion a op).response = s.response := by
  rcases s.checkCompletion_cases a op with h | ⟨-, -, h⟩ <;> simp [h]
@[simp] theorem State.checkCompletion_statusOwed (s : State) (a : Access) (op : PortOp) : (s.checkCompletion a op).statusOwed = s.statusOwed := by
  rcases s.checkCompletion_cases a op with h | ⟨-, -, h⟩ <;> simp [h]
@[simp] theorem State.checkCompletion_written (s : State) (a : Access) (op : PortOp) : (s.checkCompletion a op).written = s.written := by
  rcases s.checkCompletion_cases a op with h | ⟨-, -, h⟩ <;> simp [h]
@[simp] theorem State.checkCompletion_busy (s : State) (a : Access) (op : PortOp) : (s.checkCompletion a op).busy = s.busy := by
  rcases s.checkCompletion_cases a op with h | ⟨-, -, h⟩ <;> simp [h]

theorem State.checkCompletion_of_settled (s : State) (a : Access) (op : PortOp) (h : s.statusOwed = false) :
    s.checkCompletion a op = s := by
  simp [State.checkCompletion, h]

theorem State.checkCompletion_of_allowed (s : State) (a : Access) (op : PortOp) (h : op.allowedWhileBusy = true) :
    s.checkCompletion a op = s := by
  simp [State.checkCompletion, h]

theorem State.checkCompletion_of_owed (s : State) (a : Access) (op : PortOp) (h : s.statusOwed = true)
    (ha : op.allowedWhileBusy = false) : s.checkCompletion a op = s.raise (.hostProtocolViolation a) := by
  simp [State.checkCompletion, h, ha]

/-! ### `State.checkStart` -/

/-- The check of a host's duty leaves the state, or raises the mark for the `CMD` write. -/
theorem State.checkStart_cases (s : State) (v : Word) (r : HostReg) :
    s.checkStart v r = s ∨ (r = .cmd ∧ s.operandsOwed v = true ∧
      s.checkStart v r = s.raise (.hostProtocolViolation (.write32 0x00 v))) := by
  cases r with
  | cmd =>
    unfold State.checkStart
    cases h : s.operandsOwed v
    · exact .inl rfl
    · exact .inr ⟨rfl, rfl, rfl⟩
  | _ => exact .inl rfl

@[simp] theorem State.checkStart_cfg (s : State) (v : Word) (r : HostReg) : (s.checkStart v r).cfg = s.cfg := by
  rcases s.checkStart_cases v r with h | ⟨-, -, h⟩ <;> simp [h]
@[simp] theorem State.checkStart_cmd (s : State) (v : Word) (r : HostReg) : (s.checkStart v r).cmd = s.cmd := by
  rcases s.checkStart_cases v r with h | ⟨-, -, h⟩ <;> simp [h]
@[simp] theorem State.checkStart_code (s : State) (v : Word) (r : HostReg) : (s.checkStart v r).code = s.code := by
  rcases s.checkStart_cases v r with h | ⟨-, -, h⟩ <;> simp [h]
@[simp] theorem State.checkStart_arg0 (s : State) (v : Word) (r : HostReg) : (s.checkStart v r).arg0 = s.arg0 := by
  rcases s.checkStart_cases v r with h | ⟨-, -, h⟩ <;> simp [h]
@[simp] theorem State.checkStart_arg1 (s : State) (v : Word) (r : HostReg) : (s.checkStart v r).arg1 = s.arg1 := by
  rcases s.checkStart_cases v r with h | ⟨-, -, h⟩ <;> simp [h]
@[simp] theorem State.checkStart_oobLen (s : State) (v : Word) (r : HostReg) : (s.checkStart v r).oobLen = s.oobLen := by
  rcases s.checkStart_cases v r with h | ⟨-, -, h⟩ <;> simp [h]
@[simp] theorem State.checkStart_result (s : State) (v : Word) (r : HostReg) : (s.checkStart v r).result = s.result := by
  rcases s.checkStart_cases v r with h | ⟨-, -, h⟩ <;> simp [h]
@[simp] theorem State.checkStart_dbuf (s : State) (v : Word) (r : HostReg) : (s.checkStart v r).dbuf = s.dbuf := by
  rcases s.checkStart_cases v r with h | ⟨-, -, h⟩ <;> simp [h]
@[simp] theorem State.checkStart_obuf (s : State) (v : Word) (r : HostReg) : (s.checkStart v r).obuf = s.obuf := by
  rcases s.checkStart_cases v r with h | ⟨-, -, h⟩ <;> simp [h]
@[simp] theorem State.checkStart_medium (s : State) (v : Word) (r : HostReg) : (s.checkStart v r).medium = s.medium := by
  rcases s.checkStart_cases v r with h | ⟨-, -, h⟩ <;> simp [h]
@[simp] theorem State.checkStart_latched (s : State) (v : Word) (r : HostReg) : (s.checkStart v r).latched = s.latched := by
  rcases s.checkStart_cases v r with h | ⟨-, -, h⟩ <;> simp [h]
@[simp] theorem State.checkStart_freeCount (s : State) (v : Word) (r : HostReg) : (s.checkStart v r).freeCount = s.freeCount := by
  rcases s.checkStart_cases v r with h | ⟨-, -, h⟩ <;> simp [h]
@[simp] theorem State.checkStart_pending (s : State) (v : Word) (r : HostReg) : (s.checkStart v r).pending = s.pending := by
  rcases s.checkStart_cases v r with h | ⟨-, -, h⟩ <;> simp [h]
@[simp] theorem State.checkStart_response (s : State) (v : Word) (r : HostReg) : (s.checkStart v r).response = s.response := by
  rcases s.checkStart_cases v r with h | ⟨-, -, h⟩ <;> simp [h]
@[simp] theorem State.checkStart_statusOwed (s : State) (v : Word) (r : HostReg) : (s.checkStart v r).statusOwed = s.statusOwed := by
  rcases s.checkStart_cases v r with h | ⟨-, -, h⟩ <;> simp [h]
@[simp] theorem State.checkStart_written (s : State) (v : Word) (r : HostReg) : (s.checkStart v r).written = s.written := by
  rcases s.checkStart_cases v r with h | ⟨-, -, h⟩ <;> simp [h]
@[simp] theorem State.checkStart_busy (s : State) (v : Word) (r : HostReg) : (s.checkStart v r).busy = s.busy := by
  rcases s.checkStart_cases v r with h | ⟨-, -, h⟩ <;> simp [h]

theorem State.checkStart_of_operandsOwed (s : State) (v : Word) (h : s.operandsOwed v = true) :
    s.checkStart v .cmd = s.raise (.hostProtocolViolation (.write32 0x00 v)) := if_pos h

theorem State.checkStart_of_not_operandsOwed (s : State) (v : Word) (h : s.operandsOwed v = false) :
    s.checkStart v .cmd = s := by
  simp [State.checkStart, h]

@[simp] theorem State.checkStart_cmd_faultMark (s : State) (v : Word) :
    (s.checkStart v .cmd).faultMark =
      if s.operandsOwed v then some (s.faultMark.getD (.hostProtocolViolation (.write32 0x00 v))) else s.faultMark := by
  cases h : s.operandsOwed v
  · rw [s.checkStart_of_not_operandsOwed v h]; rfl
  · rw [s.checkStart_of_operandsOwed v h]; rfl

@[simp] theorem State.checkStart_of_ne_cmd (s : State) (v : Word) (r : HostReg) (h : r ≠ .cmd) : s.checkStart v r = s := by
  cases r <;> first | rfl | exact absurd rfl h

/-! ### `State.resetOf` -/

@[simp] theorem State.resetOf_cfg (g : Geometry) (image : List Byte) : (State.resetOf g image).cfg = g := rfl
@[simp] theorem State.resetOf_cmd (g : Geometry) (image : List Byte) : (State.resetOf g image).cmd = 0 := rfl
@[simp] theorem State.resetOf_code (g : Geometry) (image : List Byte) : (State.resetOf g image).code = .ok := rfl
@[simp] theorem State.resetOf_arg0 (g : Geometry) (image : List Byte) : (State.resetOf g image).arg0 = 0 := rfl
@[simp] theorem State.resetOf_arg1 (g : Geometry) (image : List Byte) : (State.resetOf g image).arg1 = 0 := rfl
@[simp] theorem State.resetOf_oobLen (g : Geometry) (image : List Byte) : (State.resetOf g image).oobLen = 0 := rfl
@[simp] theorem State.resetOf_result (g : Geometry) (image : List Byte) : (State.resetOf g image).result = 0 := rfl
@[simp] theorem State.resetOf_dbuf (g : Geometry) (image : List Byte) : (State.resetOf g image).dbuf = [] := rfl
@[simp] theorem State.resetOf_obuf (g : Geometry) (image : List Byte) : (State.resetOf g image).obuf = [] := rfl
@[simp] theorem State.resetOf_medium (g : Geometry) (image : List Byte) : (State.resetOf g image).medium = Memory.ofImage g.mediumSize image := rfl
@[simp] theorem State.resetOf_latched (g : Geometry) (image : List Byte) : (State.resetOf g image).latched = none := rfl
@[simp] theorem State.resetOf_faultMark (g : Geometry) (image : List Byte) : (State.resetOf g image).faultMark = none := rfl
@[simp] theorem State.resetOf_freeCount (g : Geometry) (image : List Byte) : (State.resetOf g image).freeCount = 0 := rfl
@[simp] theorem State.resetOf_pending (g : Geometry) (image : List Byte) : (State.resetOf g image).pending = [] := rfl
@[simp] theorem State.resetOf_response (g : Geometry) (image : List Byte) : (State.resetOf g image).response = .silent := rfl
@[simp] theorem State.resetOf_statusOwed (g : Geometry) (image : List Byte) : (State.resetOf g image).statusOwed = false := rfl
@[simp] theorem State.resetOf_written (g : Geometry) (image : List Byte) : (State.resetOf g image).written = ⟨false, false, false⟩ := rfl

end Sys2Proof.Machine
end

