-- ==== Sys2Proof/Laws/Ops.lean ====
section
/-! SUPPORT. One lemma per shared operation and per command plan: everything it can answer. -/

namespace Sys2Proof.Machine

/-! ### Operands -/

/-- A buffer slice is read exactly when the buffer holds it. -/
theorem State.bufSlice_eq_ok_iff (s : State) (b : BufferName) (lo n : Nat) (bs : List Byte) :
    s.bufSlice b lo n = .ok bs ↔ bs.length = n ∧ (s.buffer b).Holds lo bs := by
  rw [← Memory.bufSlice_eq_ok_iff, State.bufSlice]
  cases (s.buffer b).bufSlice lo n <;> simp

/-- A buffer slice is refused exactly at its first unwritten byte. -/
theorem State.bufSlice_eq_error_iff (s : State) (b : BufferName) (lo n : Nat) (e : Stop) :
    s.bufSlice b lo n = .error e ↔
      ∃ i, e = .fault (.uninitialisedBuffer b i) ∧ (lo ≤ i ∧ i < lo + n) ∧ (s.buffer b).bufByte i = none ∧
        ∀ j, lo ≤ j → j < i → (s.buffer b).bufByte j ≠ none := by
  constructor
  · intro h
    unfold State.bufSlice at h
    split at h
    · next i hi => cases h; exact ⟨i, rfl, (Memory.bufSlice_eq_error_iff _ _ _ _).mp hi⟩
    · cases h
  · rintro ⟨i, rfl, h⟩
    unfold State.bufSlice
    rw [(Memory.bufSlice_eq_error_iff _ _ _ _).mpr h]

theorem State.pageOperand_eq_ok_iff (s : State) (lp pp : Nat) :
    s.pageOperand lp = .ok pp ↔ ∃ pb, s.cfg.translate lp = some (pp, pb) := by
  unfold State.pageOperand
  split <;> simp_all

theorem State.pageOperand_eq_error_iff (s : State) (lp : Nat) (e : Stop) :
    s.pageOperand lp = .error e ↔ s.cfg.translate lp = none ∧ e = .status .ioError := by
  unfold State.pageOperand
  cases s.cfg.translate lp <;> simp [eq_comm]

/-- The metadata operand has `OOB_FREE` bytes. -/
theorem State.metadataOperand_eq_ok_iff (s : State) (o : Bool) (bs : List Byte) :
    s.metadataOperand o = .ok bs ↔
      bs.length = s.cfg.oobFree ∧ if o then s.obuf.Holds s.cfg.eccSize bs else bs = erased s.cfg.oobFree := by
  unfold State.metadataOperand
  cases o
  · simp only [Bool.false_eq_true, if_false, Except.ok.injEq, eq_comm (a := erased _)]
    exact ⟨fun h => ⟨by rw [h]; simp, h⟩, fun h => h.2⟩
  · simp only [if_true]
    exact State.bufSlice_eq_ok_iff _ _ _ _ _

/-! ### Command plans -/

theorem State.eccCodewordInput_eq_ok_iff (s : State) (d : List Byte) :
    s.eccCodewordInput = .ok d ↔
      s.arg0Value < s.cfg.codewordsPerPage ∧ d.length = 256 ∧ s.dbuf.Holds (256 * s.arg0Value) d := by
  unfold State.eccCodewordInput
  split
  · simp; omega
  · next h =>
    exact (State.bufSlice_eq_ok_iff s .dbuf _ _ _).trans ⟨fun h2 => ⟨by omega, h2⟩, fun h2 => h2.2⟩

theorem State.readPagePlan_eq_ok_iff (s : State) (o : Bool) (pp : Nat) :
    s.readPagePlan o = .ok pp ↔
      (o = true → s.oobLenValue ≤ s.cfg.oobSize) ∧ ∃ pb, s.cfg.translate s.arg0Value = some (pp, pb) := by
  unfold State.readPagePlan
  split
  · next h => simp only [reduceCtorEq, false_iff, not_and]; intro h2; have := h2 h.1; omega
  · next h =>
    rw [State.pageOperand_eq_ok_iff]
    exact ⟨fun h2 => ⟨fun ho => by simp [ho] at h; omega, h2⟩, fun h2 => h2.2⟩

/-- What WRITE_PAGE stores, when its checks pass (R220, R221). -/
theorem State.writePagePlan_eq_ok_iff (s : State) (o : Bool) (w : PageWrite) :
    s.writePagePlan o = .ok w ↔
      (∃ pb, s.cfg.translate s.arg0Value = some (w.page, pb)) ∧
        (w.payload.length = s.cfg.pageDataSize ∧ s.dbuf.Holds 0 w.payload) ∧
        ∃ metadata, s.metadataOperand o = .ok metadata ∧ w.oob = computePageEcc w.payload ++ metadata := by
  have hpay : s.payloadOperand = .ok w.payload ↔ w.payload.length = s.cfg.pageDataSize ∧ s.dbuf.Holds 0 w.payload :=
    State.bufSlice_eq_ok_iff s .dbuf _ _ _
  rw [← State.pageOperand_eq_ok_iff, ← hpay]
  unfold State.writePagePlan
  cases s.pageOperand s.arg0Value with
  | error e => simp
  | ok pp =>
    cases s.payloadOperand with
    | error e => simp
    | ok data =>
      cases s.metadataOperand o with
      | error e => simp
      | ok metadata =>
        obtain ⟨p, d, b⟩ := w
        simp only [Except.ok.injEq, PageWrite.mk.injEq, exists_eq_left']
        constructor
        · rintro ⟨rfl, rfl, rfl⟩; exact ⟨rfl, rfl, rfl⟩
        · rintro ⟨rfl, rfl, rfl⟩; exact ⟨rfl, rfl, rfl⟩

/-- The full OOB buffer of WRITE_PAGE has `OOB_SIZE` bytes. -/
theorem State.length_oob_of_writePagePlan {s : State} {o : Bool} {w : PageWrite} (h : s.writePagePlan o = .ok w) :
    w.payload.length = s.cfg.pageDataSize ∧ w.oob.length = s.cfg.oobSize := by
  obtain ⟨-, ⟨hlen, -⟩, m, hm, hoob⟩ := (s.writePagePlan_eq_ok_iff o w).mp h
  have h1 := ((s.metadataOperand_eq_ok_iff o m).mp hm).1
  have h2 := s.cfg.eccSize_add_oobFree
  have h3 := s.cfg.eccSize_eq
  refine ⟨hlen, ?_⟩
  rw [hoob, List.length_append, length_computePageEcc, h1, hlen]
  unfold Geometry.codewordsPerPage at h3
  omega

theorem State.movePagePlan_eq_ok_iff (s : State) (fp tp : Nat) :
    s.movePagePlan = .ok (fp, tp) ↔
      (∃ fb, s.cfg.translate s.arg0Value = some (fp, fb)) ∧ (∃ tb, s.cfg.translate s.arg1Value = some (tp, tb)) ∧
        s.cfg.planeAligned fp tp = true := by
  rw [← State.pageOperand_eq_ok_iff, ← State.pageOperand_eq_ok_iff]
  unfold State.movePagePlan
  cases s.pageOperand s.arg0Value with
  | error e => simp
  | ok a =>
    cases s.pageOperand s.arg1Value with
    | error e => simp
    | ok b =>
      dsimp only
      split
      · next h =>
        simp only [Except.ok.injEq, Prod.mk.injEq]
        constructor
        · rintro ⟨rfl, rfl⟩; exact ⟨rfl, rfl, h⟩
        · rintro ⟨rfl, rfl, -⟩; exact ⟨rfl, rfl⟩
      · next h =>
        simp only [reduceCtorEq, Except.ok.injEq, false_iff]
        rintro ⟨rfl, rfl, h2⟩
        exact h h2

theorem State.eraseBlockPlan_eq_ok_iff (s : State) (b : Nat) :
    s.eraseBlockPlan = .ok b ↔ b = s.arg0Value ∧ s.arg0Value < s.cfg.blocksInDevice := by
  unfold State.eraseBlockPlan
  split
  · simp; omega
  · simp only [Except.ok.injEq, eq_comm (a := b)]
    exact ⟨fun h => ⟨h, by omega⟩, fun h => h.1⟩

/-! ### Erasing -/

@[simp] theorem State.eraseBlockAt_eq (s : State) (b : Nat) :
    s.eraseBlockAt b = { s with medium := s.medium.write (s.cfg.blockBase b) (erased s.cfg.blockSize) } := rfl

/-- Reading a medium after a range of it is erased. -/
theorem Memory.read_write_erased (m : Memory) (base n a : Nat) :
    (m.write base (erased n)).read a = if base ≤ a ∧ a < base + n then eraseValue else m.read a := by
  rw [Memory.read_write]
  by_cases h : base ≤ a ∧ a < base + n
  · rw [if_pos h.1, if_pos h, List.getElem?_eq_getElem (by simp; omega)]
    simp [erased]
  · rw [if_neg h]
    split
    · rw [List.getElem?_eq_none (by simp; omega)]; rfl
    · rfl

/-- The loop of ERASE_WINDOW over blocks of the device: no failure, every byte of the blocks erased, no other
touched. -/
theorem State.foldl_eraseOrCount (bs : List Nat) (s : State) (n : Nat) (h : ∀ b ∈ bs, b < s.cfg.blocksInDevice) :
    ∃ m, bs.foldl State.eraseOrCount (s, n) = ({ s with medium := m }, n) ∧
      (∀ a, m.read a =
        if ∃ b ∈ bs, s.cfg.blockBase b ≤ a ∧ a < s.cfg.blockBase b + s.cfg.blockSize then eraseValue
        else s.medium.read a) ∧
      (s.medium.wf s.cfg.mediumSize → m.wf s.cfg.mediumSize) := by
  induction bs generalizing s with
  | nil => exact ⟨s.medium, rfl, by simp, id⟩
  | cons b bs ih =>
    have hb : b < s.cfg.blocksInDevice := h b (by simp)
    obtain ⟨m, h1, h2, h3⟩ := ih (s.eraseBlockAt b) fun c hc => h c (by simp [hc])
    refine ⟨m, ?_, fun a => ?_, fun hwf => ?_⟩
    · rw [List.foldl_cons, State.eraseOrCount, if_neg (by simpa using hb), h1]; rfl
    · rw [h2 a, State.eraseBlockAt_eq]
      dsimp only
      rw [Memory.read_write_erased]
      by_cases h5 : ∃ c ∈ bs, s.cfg.blockBase c ≤ a ∧ a < s.cfg.blockBase c + s.cfg.blockSize
      · obtain ⟨c, hc, hin⟩ := h5
        rw [if_pos ⟨c, hc, hin⟩, if_pos ⟨c, by simp [hc], hin⟩]
      · rw [if_neg h5]
        by_cases h6 : s.cfg.blockBase b ≤ a ∧ a < s.cfg.blockBase b + s.cfg.blockSize
        · rw [if_pos h6, if_pos ⟨b, by simp, h6⟩]
        · rw [if_neg h6, if_neg]
          rintro ⟨c, hc, hin⟩
          rcases List.mem_cons.mp hc with rfl | hc
          · exact h6 hin
          · exact h5 ⟨c, hc, hin⟩
    · refine h3 (Memory.wf_write hwf _ _ ?_)
      simpa using s.cfg.block_fits hb

/-- ERASE_WINDOW never counts a failure, erases the window's blocks and touches no other byte (R240). -/
theorem State.eraseWindowLoop_spec (s : State) :
    ∃ m, s.eraseWindowLoop = ({ s with medium := m }, 0) ∧
      (∀ a, m.read a =
        if ∃ b ∈ s.cfg.windowBlocks, s.cfg.blockBase b ≤ a ∧ a < s.cfg.blockBase b + s.cfg.blockSize then eraseValue
        else s.medium.read a) ∧
      (s.medium.wf s.cfg.mediumSize → m.wf s.cfg.mediumSize) :=
  State.foldl_eraseOrCount _ s 0 fun b hb =>
    lt_of_lt_of_le ((s.cfg.mem_windowBlocks b).mp hb).2 s.cfg.blockEnd_le

/-! ### Interruption -/

@[simp] theorem length_freeBytes (k n : Nat) : (freeBytes k n).length = n := by simp [freeBytes]

/-- Scrambling ranges keeps every byte outside them, and the canonical form where they fit (R297). -/
theorem State.foldl_scramble (rs : List Range) (s : State) :
    ∃ m n, rs.foldl State.scramble s = { s with medium := m, freeCount := n } ∧
      (∀ a, (∀ r ∈ rs, Outside a r) → m.read a = s.medium.read a) ∧
      ((∀ r ∈ rs, r.1 + r.2 ≤ s.cfg.mediumSize) → s.medium.wf s.cfg.mediumSize → m.wf s.cfg.mediumSize) := by
  induction rs generalizing s with
  | nil => exact ⟨s.medium, s.freeCount, rfl, fun _ _ => rfl, fun _ h => h⟩
  | cons r rs ih =>
    obtain ⟨m, n, h1, h2, h3⟩ := ih (s.scramble r)
    refine ⟨m, n, ?_, fun a ha => ?_, fun hfit hwf => ?_⟩
    · rw [List.foldl_cons, h1]; rfl
    · rw [h2 a fun q hq => ha q (by simp [hq]), State.scramble_medium]
      exact Memory.read_write_outside _ _ _ _ (by simpa using ha r (by simp))
    · refine h3 (fun q hq => hfit q (by simp [hq])) (Memory.wf_write hwf _ _ ?_)
      simpa using hfit r (by simp)

/-- Every footprint lies inside the medium (R297). -/
theorem State.footprintOf_fits (s : State) (i : Instr) : ∀ r ∈ s.footprintOf i, r.1 + r.2 ≤ s.cfg.mediumSize := by
  intro r hr
  cases i with
  | writePage o =>
    cases h : s.writePagePlan o with
    | error e => simp [State.footprintOf, h] at hr
    | ok w =>
      simp only [State.footprintOf, h, List.mem_singleton] at hr
      obtain ⟨⟨pb, ht⟩, -⟩ := (s.writePagePlan_eq_ok_iff o w).mp h
      exact hr ▸ s.cfg.page_fits (s.cfg.translate_lt ht)
  | movePage =>
    cases h : s.movePagePlan with
    | error e => simp [State.footprintOf, h] at hr
    | ok w =>
      obtain ⟨fp, tp⟩ := w
      simp only [State.footprintOf, h, List.mem_singleton] at hr
      obtain ⟨-, ⟨tb, ht⟩, -⟩ := (s.movePagePlan_eq_ok_iff fp tp).mp h
      exact hr ▸ s.cfg.page_fits (s.cfg.translate_lt ht)
  | eraseBlock =>
    cases h : s.eraseBlockPlan with
    | error e => simp [State.footprintOf, h] at hr
    | ok b =>
      simp only [State.footprintOf, h, List.mem_singleton] at hr
      obtain ⟨rfl, hb⟩ := (s.eraseBlockPlan_eq_ok_iff b).mp h
      exact hr ▸ s.cfg.block_fits hb
  | eraseWindow =>
    simp only [State.footprintOf, List.mem_map] at hr
    obtain ⟨b, hb, rfl⟩ := hr
    exact s.cfg.block_fits (lt_of_lt_of_le ((s.cfg.mem_windowBlocks b).mp hb).2 s.cfg.blockEnd_le)
  | _ => simp [State.footprintOf] at hr

theorem State.footprint_fits (s : State) : ∀ r ∈ s.footprint, r.1 + r.2 ≤ s.cfg.mediumSize := by
  intro r hr
  unfold State.footprint at hr
  split at hr
  · simp at hr
  · split at hr
    · simp at hr
    · exact s.footprintOf_fits _ r hr

/-- An idle block has no footprint, so a reset of one interrupts nothing. -/
theorem State.interrupt_idle (s : State) (h : s.busy = false) : s.interrupt = s := by
  rw [State.busy_eq_false_iff] at h
  simp [State.interrupt, State.footprint, h]

/-- What an interruption leaves (R297). -/
theorem State.interrupt_spec (s : State) :
    ∃ m n, s.interrupt = { s with medium := m, freeCount := n } ∧
      (∀ a, (∀ r ∈ s.footprint, Outside a r) → m.read a = s.medium.read a) ∧
      (s.medium.wf s.cfg.mediumSize → m.wf s.cfg.mediumSize) := by
  obtain ⟨m, n, h1, h2, h3⟩ := State.foldl_scramble s.footprint s
  exact ⟨m, n, h1, h2, h3 s.footprint_fits⟩

/-! ### Host accesses -/

/-- The mark that the duty on completion leaves, for an access that the duty forbids. -/
theorem State.checkCompletion_eq_unreadMark (s : State) (a : Access) (op : PortOp) (h : op.allowedWhileBusy = false) :
    s.checkCompletion a op = { s with faultMark := s.unreadMark a } := by
  unfold State.checkCompletion State.unreadMark
  by_cases ho : s.statusOwed = true
  · simp [ho, h, State.raise]
  · simp only [if_neg ho, h, Bool.not_false, Bool.and_true]

/-- Everything a host access can do: a bus error, a protocol violation while busy, or the port's operation, after
the check of the duty on completion (R70, R71, R293, R294). -/
theorem State.hostAccess_cases (s : State) (a : Access) :
    (a.portOp? s.cfg = none ∧
      s.hostAccess a = (s.raise (.busError a.addr a.width a.isWrite)).respond .busError) ∨
    (∃ op, a.portOp? s.cfg = some op ∧ s.busy = true ∧ op.allowedWhileBusy = false ∧
      s.hostAccess a = (s.raise (.hostProtocolViolation a)).respond .noValue) ∨
    (∃ op, a.portOp? s.cfg = some op ∧ (s.busy = false ∨ op.allowedWhileBusy = true) ∧
      s.hostAccess a = (s.checkCompletion a op).portAccess op) := by
  unfold State.hostAccess
  cases h : a.portOp? s.cfg with
  | none => exact .inl ⟨rfl, rfl⟩
  | some op =>
    cases hb : s.busy <;> cases ha : op.allowedWhileBusy <;> simp_all

/-- The start duty is broken exactly when the word is a command with an unwritten operand register (R109, R294). -/
theorem State.operandsOwed_eq_true_iff (s : State) (w : Word) :
    s.operandsOwed w = true ↔ s.BreaksStartDuty w := by
  unfold State.operandsOwed
  cases h : decodeCommand w with
  | error e => simp [State.BreaksStartDuty, h]
  | ok i =>
    have key : s.BreaksStartDuty w ↔ ((s.written.arg0 = false ∧ i ≠ .readId ∧ i ≠ .eraseWindow ∧ i ≠ .eccPage ∧
        i ≠ .eccVerify) ∨ (s.written.arg1 = false ∧ (i = .movePage ∨ i = .planeCheck)) ∨
        (s.written.oobLen = false ∧ (i = .readPage false true ∨ i = .readPage true true))) := by
      simp [State.BreaksStartDuty, h]
    rw [key]
    cases i with
    | readPage d o => cases d <;> cases o <;> simp [Instr.readsArg0, Instr.readsArg1, Instr.readsOobLen]
    | _ => simp [Instr.readsArg0, Instr.readsArg1, Instr.readsOobLen]

/-- The host of an idle block gets its access, and so does one whose access is allowed while busy. -/
theorem State.hostAccess_of_portOp {s : State} {a : Access} {op : PortOp} (h : a.portOp? s.cfg = some op)
    (hb : s.busy = false ∨ op.allowedWhileBusy = true) : s.hostAccess a = (s.checkCompletion a op).portAccess op := by
  unfold State.hostAccess
  rw [h]
  rcases hb with hb | hb <;> simp [hb]

/-- While the block is busy any other access is a protocol violation. -/
theorem State.hostAccess_of_busy {s : State} {a : Access} {op : PortOp} (h : a.portOp? s.cfg = some op)
    (hb : s.busy = true) (ha : op.allowedWhileBusy = false) :
    s.hostAccess a = (s.raise (.hostProtocolViolation a)).respond .noValue := by
  unfold State.hostAccess
  rw [h]
  simp [hb, ha]

/-- A register write touches no geometry, medium, buffer, result, status code, mark or host field. -/
theorem State.writeReg_frame (s : State) (v : Word) (r : HostReg) :
    s.writeReg v r = { s with
      cmd := (s.writeReg v r).cmd, arg0 := (s.writeReg v r).arg0, arg1 := (s.writeReg v r).arg1
      oobLen := (s.writeReg v r).oobLen, latched := (s.writeReg v r).latched
      statusOwed := (s.writeReg v r).statusOwed, written := (s.writeReg v r).written } := by
  cases r <;> rfl

/-- What no host access changes: the geometry, the status code, `RESULT`, the medium, the free count, the moves. -/
theorem State.hostAccess_frame (s : State) (a : Access) :
    (s.hostAccess a).cfg = s.cfg ∧ (s.hostAccess a).code = s.code ∧ (s.hostAccess a).result = s.result ∧
      (s.hostAccess a).medium = s.medium ∧ (s.hostAccess a).freeCount = s.freeCount ∧
      (s.hostAccess a).pending = s.pending := by
  rcases s.hostAccess_cases a with ⟨-, h⟩ | ⟨op, -, -, -, h⟩ | ⟨op, -, -, h⟩ <;> rw [h]
  · simp
  · simp
  · cases op with
    | readReg r => simp [State.portAccess]
    | writeReg r v => cases r <;> simp [State.portAccess, State.writeReg]
    | readBuf b i => unfold State.portAccess; dsimp only; split <;> simp
    | writeBuf b i v => simp [State.portAccess]

/-! ### Register decoding -/

theorem regAt_eq (a : Word) (h : a.toNat < 0x100) (h4 : a.toNat % 4 = 0) :
    regAt a = some (HostReg.ofOffset a.toNat) := if_pos ⟨h, h4⟩

theorem regAt_eq_none_iff (a : Word) : regAt a = none ↔ ¬(a.toNat < 0x100 ∧ a.toNat % 4 = 0) := by
  unfold regAt
  split <;> simp_all

/-- The buffer byte behind a host address (R66, R67). -/
theorem bufByteAt_eq_some_iff (g : Geometry) (a : Word) (b : BufferName) (i : Nat) :
    bufByteAt g a = some (b, i) ↔
      (b = .dbuf ∧ i < g.pageDataSize ∧ a.toNat = 0x10000000 + i) ∨
        (b = .obuf ∧ i < g.oobSize ∧ a.toNat = 0x20000000 + i) := by
  have h1 := g.pageDataSize_le
  unfold bufByteAt dbufWindow obufWindow
  cases b
  · by_cases h : 0x10000000 ≤ a.toNat ∧ a.toNat < 0x10000000 + g.pageDataSize
    · simp only [if_pos h, Option.some.injEq, Prod.mk.injEq, true_and, reduceCtorEq, false_and, or_false]; omega
    · rw [if_neg h]
      split
      · simp only [Option.some.injEq, Prod.mk.injEq, reduceCtorEq, false_and, or_false, true_and, false_iff]; omega
      · simp only [reduceCtorEq, false_and, or_false, true_and, false_iff]; omega
  · by_cases h : 0x10000000 ≤ a.toNat ∧ a.toNat < 0x10000000 + g.pageDataSize
    · simp only [if_pos h, Option.some.injEq, Prod.mk.injEq, reduceCtorEq, false_and, false_or, true_and, false_iff]
      omega
    · rw [if_neg h]
      split
      · simp only [Option.some.injEq, Prod.mk.injEq, reduceCtorEq, false_and, false_or, true_and]; omega
      · simp only [reduceCtorEq, false_and, false_or, true_and, false_iff]; omega

theorem bufByteAt_eq_none_iff (g : Geometry) (a : Word) :
    bufByteAt g a = none ↔
      ¬(0x10000000 ≤ a.toNat ∧ a.toNat < 0x10000000 + g.pageDataSize) ∧
        ¬(0x20000000 ≤ a.toNat ∧ a.toNat < 0x20000000 + g.oobSize) := by
  unfold bufByteAt dbufWindow obufWindow
  by_cases h1 : 0x10000000 ≤ a.toNat ∧ a.toNat < 0x10000000 + g.pageDataSize
  · rw [if_pos h1]; simp [h1]
  · rw [if_neg h1]
    by_cases h2 : 0x20000000 ≤ a.toNat ∧ a.toNat < 0x20000000 + g.oobSize
    · rw [if_pos h2]; simp [h2]
    · rw [if_neg h2]; exact ⟨fun _ => ⟨h1, h2⟩, fun _ => rfl⟩

/-- The port's decoding answers a bus error exactly for the accesses that R70 lists. -/
theorem Access.portOp?_eq_none_iff (g : Geometry) (a : Access) : a.portOp? g = none ↔ a.IsBusError g := by
  cases a <;>
    simp only [Access.portOp?, Access.IsBusError, Access.width, Access.addr, Option.map_eq_none_iff,
      regAt_eq_none_iff, bufByteAt_eq_none_iff, reduceCtorEq, false_or, or_false, or_true, true_and, false_and]

/-- `STATUS` is read at any time, and once the command has ended that does the host's duty (R71, R293, R294). -/
theorem State.hostAccess_readStatus (s : State) :
    s.hostAccess Access.readStatus = (s.settle .status).respond (.word s.status) := by
  rw [State.hostAccess_of_portOp (a := Access.readStatus) (op := .readReg .status) rfl (.inr rfl),
    s.checkCompletion_of_allowed _ _ rfl]
  rfl

end Sys2Proof.Machine
end

