-- ==== Sys2Proof/Laws/Exec.lean ====
section
/-! SUPPORT. The inversion of `exec`: everything a command can do, said once. -/

namespace Sys2Proof.Machine

/-- READ_PAGE's buffer writes touch nothing else. -/
theorem State.loadPage_frame (s : State) (d o : Bool) (pp : Nat) :
    s.loadPage d o pp = { s with dbuf := (s.loadPage d o pp).dbuf, obuf := (s.loadPage d o pp).obuf } := by
  cases d <;> cases o <;> rfl

/-- `Ends i s t`: command `i`, run from `s`, may end in `t`: it stopped early, or had its effect. -/
inductive Ends : Instr → State → State → Prop
  | stopped (i : Instr) (s : State) (e : Stop) : Ends i s (s.stopWith e)
  | readId (s : State) : Ends .readId s ((s.setResult (BitVec.ofNat 32 s.cfg.readIdValue)).complete .ok)
  | readPage (s : State) (d o : Bool) (pp : Nat) (h : s.readPagePlan o = .ok pp) :
      Ends (.readPage d o) s ((s.loadPage d o pp).complete (s.readPageStatus d pp))
  | writePage (s : State) (o : Bool) (w : PageWrite) (h : s.writePagePlan o = .ok w) :
      Ends (.writePage o) s
        (((s.memWrite (s.cfg.pageBase w.page) w.payload).memWrite (s.cfg.oobBase w.page) w.oob).complete .ok)
  | movePage (s : State) (fp tp : Nat) (h : s.movePagePlan = .ok (fp, tp)) :
      Ends .movePage s
        ((s.memWrite (s.cfg.pageBase tp) (s.memRead (s.cfg.pageBase fp) s.cfg.pageSize)).complete .ok)
  | eraseBlock (s : State) (b : Nat) (h : s.eraseBlockPlan = .ok b) :
      Ends .eraseBlock s ((s.eraseBlockAt b).complete .ok)
  | eraseWindow (s : State) (m : Memory) (h : s.eraseWindowLoop = ({ s with medium := m }, 0)) :
      Ends .eraseWindow s { s with medium := m, result := 0, code := .ok, latched := none }
  | eccCodeword (s : State) (d : List Byte) (h : s.eccCodewordInput = .ok d) :
      Ends .eccCodeword s ((s.setResult (computeCodeword d).pack).complete .ok)
  | eccPage (s : State) (data : List Byte) (h : s.payloadOperand = .ok data) :
      Ends .eccPage s ((s.bufWrite .obuf 0 (computePageEcc data)).complete .ok)
  | eccVerify (s : State) (c : StatusCode) (h : c = .ok ∨ c = .eccMismatch) : Ends .eccVerify s (s.complete c)
  | translate (s : State) (pp : Nat) (h : s.pageOperand s.arg0Value = .ok pp) :
      Ends .translate s ((s.setResult (BitVec.ofNat 32 pp)).complete .ok)
  | planeCheck (s : State) (c : StatusCode) (h : c = .ok ∨ c = .invalidMove) : Ends .planeCheck s (s.complete c)

/-- Every command answers a next state, and it is one of those above. -/
theorem exec_ends (i : Instr) (s : State) : ∃ t, exec i s = .next t ∧ Ends i s t := by
  cases i with
  | readId => exact ⟨_, rfl, .readId s⟩
  | readPage d o =>
    refine ⟨_, rfl, ?_⟩
    unfold State.runReadPage
    split
    · exact .stopped _ s _
    · next pp h => exact .readPage s d o pp h
  | writePage o =>
    refine ⟨_, rfl, ?_⟩
    unfold State.runWritePage
    split
    · exact .stopped _ s _
    · next w h => exact .writePage s o w h
  | movePage =>
    refine ⟨_, rfl, ?_⟩
    unfold State.runMovePage
    split
    · exact .stopped _ s _
    · next fp tp h => exact .movePage s fp tp h
  | eraseBlock =>
    refine ⟨_, rfl, ?_⟩
    unfold State.runEraseBlock
    split
    · exact .stopped _ s _
    · next b h => exact .eraseBlock s b h
  | eraseWindow =>
    obtain ⟨m, h, -⟩ := s.eraseWindowLoop_spec
    refine ⟨_, rfl, ?_⟩
    unfold State.runEraseWindow
    rw [h]
    exact .eraseWindow s m h
  | eccCodeword =>
    refine ⟨_, rfl, ?_⟩
    unfold State.runEccCodeword
    split
    · exact .stopped _ s _
    · next d h => exact .eccCodeword s d h
  | eccPage =>
    refine ⟨_, rfl, ?_⟩
    unfold State.runEccPage
    split
    · exact .stopped _ s _
    · next data h => exact .eccPage s data h
  | eccVerify =>
    refine ⟨_, rfl, ?_⟩
    unfold State.runEccVerify
    split
    · exact .stopped _ s _
    · split
      · exact .stopped _ s _
      · exact .eccVerify s _ (by split <;> simp)
  | translate =>
    refine ⟨_, rfl, ?_⟩
    unfold State.runTranslate
    split
    · exact .stopped _ s _
    · next pp h => exact .translate s pp h
  | planeCheck => exact ⟨_, rfl, .planeCheck s _ (by split <;> simp)⟩

/-- What a command's next state is. -/
theorem ends_of_exec {i : Instr} {s t : State} (h : exec i s = .next t) : Ends i s t := by
  obtain ⟨t', h', he⟩ := exec_ends i s
  rw [h] at h'
  cases h'
  exact he

end Sys2Proof.Machine
end

