-- ==== Sys2Proof/Laws/PerInstr.lean ====
section
/-! SUPPORT. A family of lemmas over the instructions as syntax, one per constructor: the encoded word of an
instruction agrees with its row of spec/opcode_table.json on the row's fixed bits. -/

namespace Sys2Proof.Laws.TableRow

/-- The `match` of an instruction's row in spec/opcode_table.json. -/
def fixedValue : Instr → Word
  | .readId => 0x00000001
  | .readPage _ _ => 0x00000002
  | .writePage _ => 0x00000103
  | .movePage => 0x00000004
  | .eraseBlock => 0x00000005
  | .eraseWindow => 0x00000006
  | .eccCodeword => 0x00000010
  | .eccPage => 0x00000011
  | .eccVerify => 0x00000012
  | .translate => 0x00000020
  | .planeCheck => 0x00000021

/-- The `mask` of an instruction's row: the bits the row fixes. -/
def fixedMask : Instr → Word
  | .readPage _ _ => 0xFFFFFCFF
  | .writePage _ => 0xFFFFFDFF
  | .readId | .movePage | .eraseBlock | .eraseWindow | .eccCodeword | .eccPage | .eccVerify | .translate
  | .planeCheck => 0xFFFFFFFF

/-- The encoded word has the row's value on the row's fixed bits. -/
def Statement (i : Instr) : Prop := encode i &&& fixedMask i = fixedValue i

theorem readId : Statement .readId := rfl

theorem readPage (d o : Bool) : Statement (.readPage d o) := by cases d <;> cases o <;> rfl

theorem writePage (o : Bool) : Statement (.writePage o) := by cases o <;> rfl

theorem movePage : Statement .movePage := rfl

theorem eraseBlock : Statement .eraseBlock := rfl

theorem eraseWindow : Statement .eraseWindow := rfl

theorem eccCodeword : Statement .eccCodeword := rfl

theorem eccPage : Statement .eccPage := rfl

theorem eccVerify : Statement .eccVerify := rfl

theorem translate : Statement .translate := rfl

theorem planeCheck : Statement .planeCheck := rfl

end Sys2Proof.Laws.TableRow
end

