-- ==== Sys2Proof/Laws/Step.lean ====
section
/-! SUPPORT. The inversion of `step` and of the block's turn: everything each can do, said once. -/

namespace Sys2Proof.Machine

/-- What the block's turn does: nothing when idle, else it rejects the word or runs the command to one of its ends. -/
theorem State.run_cases (s : State) :
    (s.latched = none ∧ s.run = .next s) ∨
    (∃ l e, s.latched = some l ∧ decodeCommand l.cmd = .error e ∧ s.run = .next s.rejectCommand) ∨
    ∃ l i t, s.latched = some l ∧ decodeCommand l.cmd = .ok i ∧ s.run = exec i s ∧ exec i s = .next t ∧ Ends i s t := by
  unfold State.run
  cases hl : s.latched with
  | none => exact .inl ⟨rfl, rfl⟩
  | some l =>
    cases hd : decodeCommand l.cmd with
    | error e => exact .inr (.inl ⟨l, e, rfl, hd, by simp only [hd]⟩)
    | ok i =>
      obtain ⟨t, ht, he⟩ := exec_ends i s
      exact .inr (.inr ⟨l, i, t, rfl, hd, by simp only [hd], ht, he⟩)

/-- The block's turn answers a next state. -/
theorem State.run_next (s : State) : ∃ t, s.run = .next t := by
  rcases s.run_cases with ⟨-, h⟩ | ⟨l, e, -, -, h⟩ | ⟨l, i, t, -, -, h, ht, -⟩
  · exact ⟨s, h⟩
  · exact ⟨s.rejectCommand, h⟩
  · exact ⟨t, h.trans ht⟩

/-- What a step does, by the next pending move. -/
theorem step_cases (s : State) :
    (s.pending = [] ∧ step s = s.run) ∨
    ∃ m rest, s.pending = m :: rest ∧
      ((∃ a, m = .access a ∧ step s = .next ((s.setPending rest).hostAccess a)) ∨
        (m = .poll ∧ step s = .next (s.pollOnce rest)) ∨
        (m = .reset ∧ step s = .next (s.setPending rest).hostReset) ∨
        (m = .run ∧ step s = (s.setPending rest).run)) := by
  unfold step State.nextMove
  cases h : s.pending with
  | nil => exact .inl ⟨rfl, rfl⟩
  | cons m rest =>
    refine .inr ⟨m, rest, rfl, ?_⟩
    cases m with
    | access a => exact .inl ⟨a, rfl, rfl⟩
    | poll => exact .inr (.inl ⟨rfl, rfl⟩)
    | reset => exact .inr (.inr (.inl ⟨rfl, rfl⟩))
    | run => exact .inr (.inr (.inr ⟨rfl, rfl⟩))

end Sys2Proof.Machine
end

