-- ==== Sys2Proof/Tests/Slice0.lean ====
section
/-! SUPPORT. The model's own tests: one step each, with expected values from spec/ (95_test_vectors.md and the rules
named), and a witness for the hypotheses of every statement of Obligations.lean. -/

namespace Sys2Proof.Tests

open Sys2Proof.Machine

/-! ### Ill-formed geometries are refused, each by its own check (00_scope.md rule R8) -/

/-- The parameters of `GS`. -/
def gs : Params := Geometry.small.toParams

/-- The parameters of `G8`. -/
def g8 : Params :=
  { planeNum := 2, oobSize := 64, pageDataSize := 2048, pagesPerBlock := 64, blockStart := 0, blockEnd := 2
    blocksInDevice := 2, readIdValue := 0 }

theorem test_wf_accepts_gs_and_g8 : gs.wf = true ∧ g8.wf = true := by decide

theorem test_wf_refuses_payload_size :
    ({ gs with pageDataSize := 300 } : Params).pageDataOk = false ∧
      Geometry.ofParams? { gs with pageDataSize := 300 } = none ∧ Geometry.ofParams? { gs with pageDataSize := 0 } = none := by
  decide

theorem test_wf_refuses_short_oob :
    ({ gs with oobSize := 2 } : Params).oobOk = false ∧ Geometry.ofParams? { gs with oobSize := 2 } = none := by decide

theorem test_wf_refuses_plane_count :
    ({ gs with planeNum := 3 } : Params).planeOk = false ∧ Geometry.ofParams? { gs with planeNum := 3 } = none ∧
      Geometry.ofParams? { gs with planeNum := 0 } = none := by
  decide

theorem test_wf_refuses_no_pages :
    ({ gs with pagesPerBlock := 0 } : Params).pagesOk = false ∧
      Geometry.ofParams? { gs with pagesPerBlock := 0 } = none := by
  decide

theorem test_wf_refuses_window :
    ({ gs with blockEnd := 9 } : Params).windowOk = false ∧ Geometry.ofParams? { gs with blockEnd := 9 } = none ∧
      Geometry.ofParams? { gs with blockStart := 6 } = none := by
  decide

theorem test_wf_refuses_large_buffer :
    ({ gs with oobSize := 2 ^ 28 + 1 } : Params).buffersFit = false ∧
      Geometry.ofParams? { gs with oobSize := 2 ^ 28 + 1 } = none := by
  decide

theorem test_wf_refuses_page_numbers :
    ({ gs with blocksInDevice := 2 ^ 30 + 1 } : Params).pageNumbersFit = false ∧
      Geometry.ofParams? { gs with blocksInDevice := 2 ^ 30 + 1 } = none := by
  decide

theorem test_wf_refuses_read_id :
    ({ gs with readIdValue := 2 ^ 32 } : Params).readIdFits = false ∧
      Geometry.ofParams? { gs with readIdValue := 2 ^ 32 } = none := by
  decide

/-- R9: the derived quantities of the source's own instance, and those of `GS` (95_test_vectors.md). -/
theorem test_derived_quantities :
    (∀ g ∈ Geometry.ofParams? g8, (g.eccSize, g.oobFree, g.codewordsPerPage, g.pageSize, g.blockSize, g.mediumSize) =
      (24, 40, 8, 2112, 135168, 270336)) ∧
    (Geometry.small.eccSize, Geometry.small.oobFree, Geometry.small.codewordsPerPage, Geometry.small.pageSize,
      Geometry.small.blockSize, Geometry.small.mediumSize, Geometry.small.blockTotal) = (3, 5, 1, 264, 1056, 8448, 4) := by
  decide

/-! ### Decoding: the words of 30_encoding.md rule R108 and of V-ENC, written out bit by bit -/

theorem test_decode_read_id : decodeCommand 0b00000000000000000000000000000001 = .ok .readId := by decide

theorem test_decode_read_page :
    decodeCommand 0b00000000000000000000000000000010 = .ok (.readPage false false) ∧
      decodeCommand 0b00000000000000000000000100000010 = .ok (.readPage true false) ∧
      decodeCommand 0b00000000000000000000001000000010 = .ok (.readPage false true) ∧
      decodeCommand 0b00000000000000000000001100000010 = .ok (.readPage true true) := by
  decide

theorem test_decode_write_page :
    decodeCommand 0b00000000000000000000000100000011 = .ok (.writePage false) ∧
      decodeCommand 0b00000000000000000000001100000011 = .ok (.writePage true) := by
  decide

theorem test_decode_move_page : decodeCommand 0b00000000000000000000000000000100 = .ok .movePage := by decide

theorem test_decode_erase_block : decodeCommand 0b00000000000000000000000000000101 = .ok .eraseBlock := by decide

theorem test_decode_erase_window : decodeCommand 0b00000000000000000000000000000110 = .ok .eraseWindow := by decide

theorem test_decode_ecc_codeword : decodeCommand 0b00000000000000000000000000010000 = .ok .eccCodeword := by decide

theorem test_decode_ecc_page : decodeCommand 0b00000000000000000000000000010001 = .ok .eccPage := by decide

theorem test_decode_ecc_verify : decodeCommand 0b00000000000000000000000000010010 = .ok .eccVerify := by decide

theorem test_decode_translate : decodeCommand 0b00000000000000000000000000100000 = .ok .translate := by decide

theorem test_decode_plane_check : decodeCommand 0b00000000000000000000000000100001 = .ok .planeCheck := by decide

theorem test_decode_refuses_by_name :
    decodeCommand 0x00000401 = .error .reservedBits ∧ decodeCommand 0x80000001 = .error .reservedBits ∧
      decodeCommand 0x00000000 = .error .reservedOpcode ∧ decodeCommand 0x00000007 = .error .reservedOpcode ∧
      decodeCommand 0x0000001F = .error .reservedOpcode ∧ decodeCommand 0x00000022 = .error .reservedOpcode ∧
      decodeCommand 0x000000FF = .error .reservedOpcode ∧ decodeCommand 0x00000003 = .error .missingPayload ∧
      decodeCommand 0x00000203 = .error .missingPayload ∧ decodeCommand 0x00000101 = .error .flagNotAllowed ∧
      decodeCommand 0x00000204 = .error .flagNotAllowed := by
  decide

theorem test_decodeTableWord :
    decodeTableWord 32 0x00000103 = some (.writePage false) ∧ decodeTableWord 32 0x00000003 = none ∧
      decodeTableWord 8 0x00000021 = some .planeCheck := by
  decide

/-! ### The first command after reset -/

/-- Whether an outcome is a next state. -/
def isNext {σ φ ρ : Type} : Host.Outcome σ φ ρ → Bool
  | .next _ => true
  | .fault _ => false
  | .refused _ => false

/-- The fifteen legal words (R108). -/
def legalWords : List Nat :=
  [0x001, 0x002, 0x102, 0x202, 0x302, 0x103, 0x303, 0x004, 0x005, 0x006, 0x010, 0x011, 0x012, 0x020, 0x021]

theorem test_every_legal_word_runs_first :
    ∀ w ∈ legalWords, isNext (step (State.reset.withFetchWord 32 w)) = true := by
  decide

/-- From reset, with no move pending, nothing happens (10_state.md rule R21: the block fetches no instructions). -/
theorem test_reset_idles : step State.reset = .next State.reset := by rfl

/-! ### Small states on `GS` -/

/-- `GS` after its first reset from an empty image (V-PORT, V-RST). -/
def fresh : State := State.resetOf Geometry.small []

/-- Payload: all `00` except byte 37, which is `10` (V-ECC-1). -/
def payload37 : List Byte := List.replicate 37 0x00 ++ [0x10] ++ List.replicate 218 0x00

/-- The OOB bytes that V-OPS's first WRITE_PAGE stores. -/
def oob37 : List Byte := [0xA6, 0x99, 0x6B, 0x11, 0x22, 0x33, 0x44, 0x55]

/-- `GS` with `DBUF` = `payload37`, `OBUF` = `oob37`, `ARG0 = 1`, `ARG1 = 9`, `OOB_LEN = 8`, as the host
has written them. -/
def loaded : State :=
  { fresh with
    dbuf := Memory.bufWrite [] 0 payload37, obuf := Memory.bufWrite [] 0 oob37, arg0 := 1, arg1 := 9, oobLen := 8
    written := ⟨true, true, true⟩ }

/-- The state that a command run from `s` leaves, for reading one or two fields of it. -/
def after (i : Instr) (s : State) : State :=
  match exec i s with
  | .next t => t
  | .fault _ => s
  | .refused _ => s

/-- The state after one step of `s` with the moves `ms` pending. -/
def stepped (s : State) (ms : List Move) : State :=
  match step (s.setPending ms) with
  | .next t => t
  | .fault _ => s
  | .refused _ => s

/-! ### V-ECC: codes -/

/-- V-ECC-1, the trace of `d[37] = 10`. -/
theorem test_ecc_code_of_d37 : computeCodeword payload37 = ⟨0xA6, 0x99, 0x6B⟩ := by decide +kernel

/-- V-ECC-1: `d[255] = 80`, and the ramp with `d[37] = 35`. -/
theorem test_ecc_code_of_last_byte_and_ramp :
    computeCodeword (List.replicate 255 0x00 ++ [0x80]) = ⟨0x55, 0x55, 0x57⟩ ∧
      computeCodeword (((List.range 256).map fun i => BitVec.ofNat 8 i).set 37 0x35) = ⟨0xA6, 0x99, 0x6B⟩ := by
  decide +kernel

/-- V-ECC-3, R148: the undetected four-bit change. -/
theorem test_ecc_undetected_four_bits :
    computeCodeword ([0x03, 0x03] ++ List.replicate 254 0x00) = computeCodeword (List.replicate 256 0x00) := by
  decide +kernel

/-- V-ECC-4: the page of 512 bytes with `d[256 + 37] = 10`. -/
theorem test_ecc_page_code_order :
    computePageEcc (List.replicate 256 0x00 ++ payload37) = [0xFF, 0xFF, 0xFF, 0xA6, 0x99, 0x6B] := by
  decide +kernel

/-! ### One or two steps per command (V-ECC-5, V-TR, V-OPS) -/

theorem test_read_id : (after .readId loaded).result = 0 ∧ (after .readId loaded).status = 0x00000000 := by decide

theorem test_ecc_codeword : (after .eccCodeword { loaded with arg0 := 0 }).result = 0x006B99A6 := by decide +kernel

/-- `G8`, with `DBUF[512 .. 515)` alone written and `ARG0 = 2`. -/
def secondUnwritten : State :=
  { State.resetOf { toParams := g8, wellFormed := by decide } [] with dbuf := Memory.bufWrite [] 512 [0x01, 0x02, 0x03], arg0 := 2 }

/-- R150: an index out of range; and the codeword's own first unwritten byte, although `DBUF[0]` is unwritten too. -/
theorem test_ecc_codeword_stops :
    (after .eccCodeword { loaded with result := 0x1234 }).result = 0x1234 ∧ (after .eccCodeword loaded).status = 0x00000004 ∧
      (after .eccCodeword secondUnwritten).faultMark = some (.uninitialisedBuffer .dbuf 515) := by
  decide +kernel

theorem test_ecc_page :
    (after .eccPage { loaded with obuf := [] }).obuf = [(0, 0xA6), (1, 0x99), (2, 0x6B)] := by decide +kernel

/-- V-ECC-5: `DBUF[5]` unwritten. -/
theorem test_ecc_page_unwritten :
    (after .eccPage { fresh with dbuf := Memory.bufWrite [] 0 (List.replicate 5 0), code := .eccMismatch }).faultMark =
      some (.uninitialisedBuffer .dbuf 5) := by
  decide

theorem test_ecc_verify :
    (after .eccVerify { loaded with obuf := Memory.bufWrite [] 0 [0xA6, 0x99, 0x6B] }).status = 0x00000000 ∧
      (after .eccVerify { loaded with obuf := Memory.bufWrite [] 0 [0xA6, 0x99, 0x6A] }).status = 0x00000002 := by
  decide +kernel

theorem test_translate :
    (after .translate { fresh with arg0 := 15 }).result = 23 ∧ (after .translate { fresh with arg0 := 0 }).result = 8 := by
  decide

theorem test_translate_past_the_window :
    (after .translate { fresh with arg0 := 16 }).status = 0x00000001 ∧
      (after .translate { fresh with arg0 := 0xFFFFFFFF }).status = 0x00000001 := by
  decide

theorem test_plane_check :
    (after .planeCheck { fresh with arg0 := 8, arg1 := 12 }).status = 0x00000003 ∧
      (after .planeCheck { fresh with arg0 := 8, arg1 := 16 }).status = 0x00000000 := by
  decide

theorem test_plane_check_past_the_medium :
    (after .planeCheck { fresh with arg0 := 1000, arg1 := 1004 }).status = 0x00000003 := by decide

/-- V-OPS: medium `[2632..2640)` after WRITE_PAGE.D.O 1, and its payload byte 37. -/
theorem test_write_page :
    (after (.writePage true) loaded).medium.readBytes 2632 8 = oob37 ∧
      (after (.writePage true) loaded).medium.read 2413 = 0x10 := by
  decide +kernel

/-- V-OPS: WRITE_PAGE.D 1 leaves the erase value in the free bytes. -/
theorem test_write_page_no_metadata :
    (after (.writePage false) { loaded with obuf := [] }).medium.readBytes 2632 8 =
      [0xA6, 0x99, 0x6B, 0xFF, 0xFF, 0xFF, 0xFF, 0xFF] := by
  decide +kernel

/-- P4: logical page 1 holds `01 00 00 ...` with the code of all `00`. -/
def mismatched : State := { fresh with medium := Memory.write [] 2376 ([0x01] ++ List.replicate 255 0x00), arg0 := 1, oobLen := 8 }

/-- P4: the mismatch is reported and the data is left as read. -/
theorem test_read_page_mismatch :
    (after (.readPage true true) mismatched).status = 0x00000002 ∧
      (after (.readPage true true) mismatched).dbuf.bufByte 0 = some 0x01 := by
  decide +kernel

/-- V-OPS: READ_PAGE.O 1, 3 writes three bytes; READ_PAGE.O 1, 9 is BAD_COMMAND. -/
theorem test_read_page_prefix :
    (after (.readPage false true) { fresh with arg0 := 1, oobLen := 3 }).obuf = [(0, 0xFF), (1, 0xFF), (2, 0xFF)] ∧
      (after (.readPage false true) { fresh with arg0 := 1, oobLen := 9 }).status = 0x00000004 := by
  decide +kernel

/-- P3: MOVE_PAGE 1, 9 copies the record to medium `[4488..4752)`. -/
theorem test_move_page :
    (after .movePage { mismatched with arg1 := 9 }).medium.read 4488 = 0x01 ∧
      (after .movePage { mismatched with arg1 := 9 }).medium.read 4744 = 0xFF := by
  decide +kernel

/-- V-OPS: blocks 2 and 3; then range before plane. -/
theorem test_move_page_checks :
    (after .movePage { fresh with arg0 := 1, arg1 := 4 }).status = 0x00000003 ∧
      (after .movePage { fresh with arg0 := 16, arg1 := 4 }).status = 0x00000001 := by
  decide

/-- `GS` with three marked bytes: the last of block 2, the first of block 3 and the first of block 4. -/
def marked : State := { fresh with medium := [(3167, 0x11), (3168, 0x22), (4224, 0x33)], arg0 := 3 }

/-- V-OPS: ERASE_BLOCK 3 erases `[3168..4224)`. -/
theorem test_erase_block : (after .eraseBlock marked).medium = [(3167, 0x11), (4224, 0x33)] := by decide +kernel

theorem test_erase_block_past_the_device : (after .eraseBlock { marked with arg0 := 8 }).status = 0x00000001 := by decide

/-- V-OPS: ERASE_WINDOW erases `[2112..6336)`. -/
theorem test_erase_window :
    (after .eraseWindow { fresh with medium := [(2111, 0x11), (2112, 0x22), (6335, 0x33), (6336, 0x44)] }).medium =
      [(2111, 0x11), (6336, 0x44)] := by
  decide +kernel

/-! ### The host port, the busy protocol and reset (V-PORT, V-BUSY, V-RST) -/

theorem test_port_geometry_registers :
    [0x40, 0x44, 0x48, 0x4C, 0x50, 0x54, 0x58, 0x5C, 0x60, 0x64].map (fun a => (stepped fresh [.r32 a]).response) =
      [2, 8, 5, 0x100, 4, 2, 6, 4, 8, 3].map Response.word := by
  decide

theorem test_port_register_write :
    (stepped fresh [.w32 0x08 0xDEADBEEF]).arg0 = 0xDEADBEEF ∧ (stepped fresh [.w32 0x14 5]).result = 0 := by decide

theorem test_port_reserved_reads_zero : (stepped fresh [.r32 0xFC]).response = .word 0 := by decide

theorem test_port_buffer_byte :
    (stepped (stepped fresh [.w8 0x10000000 0x7A]) [.r8 0x10000000]).response = .byte 0x7A ∧
      (stepped fresh [.r8 0x10000000]).faultMark = some (.uninitialisedBuffer .dbuf 0) := by
  decide

theorem test_port_bus_errors :
    ∀ a ∈ [Access.read8 0x00000000, .read32 0x00000002, .read32 0x10000000, .read8 0x10000100, .write8 0x20000008 0,
        .read32 0x00000100, .read16 0x00000000, .write64 0x10000000 0],
      (stepped fresh [.access a]).faultMark = some (.busError a.addr a.width a.isWrite) := by
  decide

/-- V-BUSY: the previous command completed `IO_ERROR`; the host has written `CMD = 0x00000001`. -/
def busyState : State := stepped { fresh with code := .ioError } [.w32 0x00 0x00000001]

theorem test_busy_status :
    (stepped busyState [.r32 0x04]).response = .word 0x80000001 ∧ (stepped busyState [.r32 0x50]).response = .word 4 ∧
      (stepped busyState [.run]).status = 0x00000000 := by
  decide

theorem test_busy_violations :
    ∀ m ∈ [Access.write32 0x08 3, .read8 0x10000000, .read32 0x14],
      (stepped busyState [.access m]).faultMark = some (.hostProtocolViolation m) := by
  decide

/-- R294, R71: after `Run` the host reads `RESULT`, writes `ARG0` or starts a command before it has read `STATUS`: it is
marked and has its effect. A geometry register may be read. -/
theorem test_unread_status_violations :
    (stepped (stepped busyState [.run]) [.r32 0x14]).faultMark = some (.hostProtocolViolation (.read32 0x14)) ∧
      (stepped (stepped busyState [.run]) [.r32 0x14]).response = .word 0 ∧
      (stepped (stepped busyState [.run]) [.w32 0x08 3]).arg0 = 3 ∧
      (stepped (stepped busyState [.run]) [.w32 0x00 0x00000012]).latched = some ⟨0x00000012, 0, 0, 0⟩ ∧
      (stepped (stepped busyState [.run]) [.r32 0x50]).faultMark = none := by
  decide

/-- R294: a `STATUS` read before `Run` does not do the duty; one after it does, and then `RESULT` is read. -/
theorem test_status_read_frees_the_host :
    (stepped (stepped (stepped busyState [.r32 0x04]) [.run]) [.r32 0x14]).faultMark =
        some (.hostProtocolViolation (.read32 0x14)) ∧
      (stepped (stepped (stepped busyState [.run]) [.r32 0x04]) [.r32 0x14]).faultMark = none := by
  decide

/-- R294: TRANSLATE started from a reset block, with `ARG0` not written and then written; the command runs either way. -/
theorem test_start_duty :
    (stepped fresh [.w32 0x00 0x00000020]).faultMark = some (.hostProtocolViolation (.write32 0x00 0x00000020)) ∧
      (stepped (stepped fresh [.w32 0x00 0x00000020]) [.run]).result = 8 ∧
      (stepped (stepped fresh [.w32 0x08 0]) [.w32 0x00 0x00000020]).faultMark = none := by
  decide

/-- R109, R106: READ_PAGE.D does not read `OOB_LEN`, READ_ID and a word that is no command read no operand register. -/
theorem test_start_duty_reads :
    (stepped (stepped fresh [.w32 0x08 1]) [.w32 0x00 0x00000102]).faultMark = none ∧
      (stepped (stepped fresh [.w32 0x08 1]) [.w32 0x00 0x00000302]).faultMark ≠ none ∧
      (stepped fresh [.w32 0x00 0x00000001]).faultMark = none ∧
      (stepped fresh [.w32 0x00 0x00000404]).faultMark = none := by
  decide

/-- V-RST: ten bytes `00`, and an image longer than the medium. -/
theorem test_reset_fill :
    (State.resetOf Geometry.small (List.replicate 10 0)).medium.readBytes 8 4 = [0, 0, 0xFF, 0xFF] ∧
      (Memory.ofImage 4 (List.replicate 6 0)) = [(0, 0), (1, 0), (2, 0), (3, 0)] := by
  decide +kernel

/-- P6: the footprint of the interrupted WRITE_PAGE.D 1. -/
theorem test_reset_footprint : ({ loaded with latched := some ⟨0x103, 1, 9, 8⟩ } : State).footprint = [(2376, 264)] := by
  decide +kernel

/-- R110, R111: the written form and the expansion of `READ_PAGE.D.O 5, 16`. -/
theorem test_program_text :
    (Instr.readPage true true).assembly 5 0 16 = "READ_PAGE.D.O 5, 16" ∧
      expandCommand (.readPage true true) 5 0 16 = [.w32 0x08 5, .w32 0x10 16, .w32 0x00 0x00000302, .poll] := by
  decide

/-! ### Witnesses: for every statement of Obligations.lean with hypotheses, states and operands that meet them, at the
boundary values of each clause -/

/-- `loaded` with the command word `w` latched as a `CMD` write latches it, and the moves `ms` pending. -/
def running (w : Word) (ms : List Move) : State :=
  { loaded with cmd := w, latched := some ⟨w, 1, 9, 8⟩, pending := ms, statusOwed := true }

/-- `loaded` with a command that has ended and whose `STATUS` is not yet read, and the moves `ms` pending. -/
def unread (ms : List Move) : State := { loaded with cmd := 0x1, pending := ms, statusOwed := true }

theorem payload37_length : payload37.length = 256 := by decide +kernel

theorem loaded_payload : loaded.dbuf.Holds 0 payload37 := fun k h =>
  Memory.bufByte_bufWrite_inside [] 0 payload37 k h

theorem running_inv (w : Word) (ms : List Move) : (running w ms).Inv :=
  ⟨Memory.wf_ofImage _ _, Memory.bufWf_bufWrite (Memory.bufWf_nil _) _ _ (show 0 + payload37.length ≤ 256 by decide +kernel),
    Memory.bufWf_bufWrite (Memory.bufWf_nil _) _ _ (show 0 + oob37.length ≤ 8 by decide), .inr rfl,
    fun _ => rfl⟩

theorem test_hyps_IllegalWordCompletesBadCommand :
    (∃ (s : State) (l : Latched), s.latched = some l ∧ l.cmd = 0x00000401 ∧ l.cmd.extractLsb' 10 22 ≠ 0 ∧ s.pending = []) ∧
    (∃ (s : State) (l : Latched), s.latched = some l ∧ s.pending = [.run] ∧ l.cmd = 0x00000022 ∧
      (l.cmd.extractLsb' 0 8).toNat ∉ [0x01, 0x02, 0x03, 0x04, 0x05, 0x06, 0x10, 0x11, 0x12, 0x20, 0x21]) ∧
    (∃ (s : State) (l : Latched), s.latched = some l ∧ s.pending = [.run] ∧ l.cmd = 0x00000203 ∧ l.cmd.extractLsb' 0 8 = 0x03 ∧
      l.cmd.getLsbD 8 = false) ∧
    ∃ (s : State) (l : Latched), s.latched = some l ∧ s.pending = [] ∧ l.cmd = 0x00000204 ∧ l.cmd.extractLsb' 0 8 ≠ 0x02 ∧
      l.cmd.extractLsb' 0 8 ≠ 0x03 ∧ (l.cmd.getLsbD 8 = true ∨ l.cmd.getLsbD 9 = true) :=
  ⟨⟨running 0x00000401 [], _, rfl, rfl, by decide, rfl⟩, ⟨running 0x00000022 [.run], _, rfl, rfl, rfl, by decide⟩,
    ⟨running 0x00000203 [.run], _, rfl, rfl, rfl, by decide, by decide⟩,
    ⟨running 0x00000204 [], _, rfl, rfl, rfl, by decide, by decide, by decide⟩⟩

theorem test_hyps_StepRunsTheDecodedCommand :
    (∃ (s : State) (l : Latched) (i : Instr), s.latched = some l ∧ decodeCommand l.cmd = .ok i ∧ s.pending = []) ∧
      ∃ (s : State) (l : Latched) (i : Instr), s.latched = some l ∧ decodeCommand l.cmd = .ok i ∧ s.pending = [.run] :=
  ⟨⟨running 0x303 [], _, .writePage true, rfl, by decide, rfl⟩, ⟨running 0x21 [.run], _, .planeCheck, rfl, by decide, rfl⟩⟩

theorem test_hyps_EveryCommandEndsIdle :
    ∃ t, exec .eccPage fresh = .next t ∧ t.faultMark ≠ fresh.faultMark :=
  ⟨{ fresh with faultMark := some (.uninitialisedBuffer .dbuf 0) }, rfl, by decide⟩

theorem test_hyps_TranslateSucceedsExactlyInTheWindow :
    Geometry.small.translate 15 = some (23, 5) ∧ Geometry.small.translate 16 = none := by decide

theorem test_hyps_TranslateGivesThePhysicalPage :
    (∃ (s : State) (pp : Nat), pp = s.arg0Value + s.cfg.blockStart * s.cfg.pagesPerBlock ∧ pp / s.cfg.pagesPerBlock ≥ s.cfg.blockEnd ∧
      s.arg0Value = 16) ∧
    ∃ (s : State) (pp : Nat), pp = s.arg0Value + s.cfg.blockStart * s.cfg.pagesPerBlock ∧ pp / s.cfg.pagesPerBlock < s.cfg.blockEnd ∧
      s.arg0Value = 15 :=
  ⟨⟨{ fresh with arg0 := 16 }, _, rfl, by decide, by decide⟩, ⟨{ fresh with arg0 := 15 }, _, rfl, by decide, by decide⟩⟩

theorem test_hyps_PlaneVerdictIsTheSameOnLogicalBlocks :
    Geometry.small.translate 0 = some (8, 2) ∧ Geometry.small.translate 15 = some (23, 5) := by decide

theorem test_hyps_LineParityBitByBit : ∃ (d : List Byte) (k : Nat), d.length = 256 ∧ k < 8 := ⟨payload37, 7, payload37_length, by decide⟩

theorem test_hyps_CodeBitTable : ∃ k, k < 4 ∧ k < 3 := ⟨2, by decide⟩

theorem test_hyps_RawCodeIsLinear : ∃ d e : List Byte, d.length = 256 ∧ e.length = 256 :=
  ⟨payload37, List.replicate 256 0x01, payload37_length, List.length_replicate⟩

theorem test_hyps_OneAndTwoBitChangesAreDetected :
    ∃ (d : List Byte) (i b j c : Nat), d.length = 256 ∧ i < 256 ∧ b < 8 ∧ j < 256 ∧ c < 8 ∧ (j, c) ≠ (i, b) :=
  ⟨payload37, 255, 7, 0, 0, payload37_length, by decide⟩

theorem test_hyps_EccCodewordPacksTheCode :
    (∃ s : State, s.arg0Value ≥ s.cfg.pageDataSize / 256 ∧ s.arg0Value = 1) ∧
    ∃ (s : State) (d : List Byte), s.arg0Value < s.cfg.pageDataSize / 256 ∧ d.length = 256 ∧
      s.dbuf.Holds (256 * s.arg0Value) d :=
  ⟨⟨loaded, by decide, by decide⟩, ⟨{ loaded with arg0 := 0 }, payload37, by decide, payload37_length, loaded_payload⟩⟩

theorem test_hyps_EccPageStoresTheCodes :
    ∃ (s : State) (data : List Byte), data.length = s.cfg.pageDataSize ∧ s.dbuf.Holds 0 data ∧ 0 < s.cfg.codewordsPerPage :=
  ⟨loaded, payload37, payload37_length, loaded_payload, by decide⟩

theorem test_hyps_EccVerifyComparesThePrefix :
    ∃ (s : State) (data pre : List Byte), data.length = s.cfg.pageDataSize ∧ s.dbuf.Holds 0 data ∧
      pre.length = s.cfg.eccSize ∧ s.obuf.Holds 0 pre :=
  ⟨loaded, payload37, [0xA6, 0x99, 0x6B], payload37_length, loaded_payload, rfl, by decide⟩

/-- `GS` with every `DBUF` byte but the last written. -/
def lastUnwritten : State := { fresh with dbuf := Memory.bufWrite [] 0 (List.replicate 255 0x00) }

theorem test_hyps_UnwrittenOperandRaisesTheFault :
    ((∀ j, 0 ≤ j → j < 255 → lastUnwritten.dbuf.bufByte j ≠ none) ∧ lastUnwritten.dbuf.bufByte 255 = none ∧
      255 < lastUnwritten.cfg.pageDataSize ∧ lastUnwritten.arg0Value = 0 ∧ 0 < lastUnwritten.cfg.codewordsPerPage ∧
      lastUnwritten.cfg.translate lastUnwritten.arg0Value = some (8, 2)) ∧
    ∃ s : State, s.arg0Value = 2 ∧ 2 < s.cfg.codewordsPerPage ∧ s.dbuf.bufByte 0 = none ∧ s.dbuf.bufByte 515 = none ∧
      ∀ j, 256 * 2 ≤ j → j < 515 → s.dbuf.bufByte j ≠ none := by
  refine ⟨by decide +kernel, secondUnwritten, rfl, by decide, rfl, rfl, fun j h1 h2 => ?_⟩
  obtain rfl | rfl | rfl : j = 512 ∨ j = 513 ∨ j = 514 := by omega
  all_goals decide

theorem test_hyps_UnwrittenObufOperandRaisesTheFault :
    (∃ s : State, (∀ j < s.cfg.pageDataSize, s.dbuf.bufByte j ≠ none) ∧ s.cfg.eccSize = 3 ∧ s.obuf.bufByte 2 = none ∧
      ∀ j, 0 ≤ j → j < 2 → s.obuf.bufByte j ≠ none) ∧
    ∃ s : State, (∀ j < s.cfg.pageDataSize, s.dbuf.bufByte j ≠ none) ∧ s.cfg.translate s.arg0Value = some (9, 2) ∧
      s.cfg.eccSize = 3 ∧ s.cfg.oobSize = 8 ∧ s.obuf.bufByte 7 = none ∧
      ∀ j, 3 ≤ j → j < 7 → s.obuf.bufByte j ≠ none := by
  have h : ∀ j < 256, loaded.dbuf.bufByte j ≠ none := by decide +kernel
  refine ⟨⟨{ loaded with obuf := [(0, 0xA6), (1, 0x99)] }, h, rfl, rfl, fun j _ hj => ?_⟩,
    ⟨{ loaded with obuf := Memory.bufWrite [] 3 [0x11, 0x22, 0x33, 0x44] }, h, by decide, rfl, rfl, rfl,
      fun j hj hj' => ?_⟩⟩
  · revert j; decide
  · revert j; decide

theorem test_hyps_ReadPageLoadsAndVerifies :
    (∃ s : State, s.cfg.translate s.arg0Value = some (9, 2) ∧ s.oobLenValue = s.cfg.oobSize) ∧
      ∃ s : State, s.cfg.translate s.arg0Value = some (23, 5) ∧ s.oobLenValue = 0 :=
  ⟨⟨loaded, by decide, by decide⟩, ⟨{ fresh with arg0 := 15 }, by decide, by decide⟩⟩

theorem test_hyps_ReadPageChecksInOrder :
    (∃ s : State, s.cfg.oobSize < s.oobLenValue ∧ s.oobLenValue = 9) ∧
      ∃ s : State, s.oobLenValue ≤ s.cfg.oobSize ∧ s.cfg.translate s.arg0Value = none ∧ s.arg0Value = 16 :=
  ⟨⟨{ loaded with oobLen := 9 }, by decide, by decide⟩, ⟨{ loaded with arg0 := 16 }, by decide, by decide, by decide⟩⟩

theorem test_hyps_WritePageStoresTheRecord :
    ∃ (s : State) (data extra : List Byte), s.cfg.translate s.arg0Value = some (9, 2) ∧
      data.length = s.cfg.pageDataSize ∧ s.dbuf.Holds 0 data ∧ extra.length = s.cfg.oobFree ∧
      s.obuf.Holds s.cfg.eccSize extra :=
  ⟨loaded, payload37, [0x11, 0x22, 0x33, 0x44, 0x55], by decide, payload37_length, loaded_payload, rfl, by decide⟩

theorem test_hyps_WritePageOutOfRange : ∃ s : State, s.cfg.blockTotal * s.cfg.pagesPerBlock ≤ s.arg0Value ∧ s.arg0Value = 16 :=
  ⟨{ fresh with arg0 := 16 }, by decide, by decide⟩

theorem exec_writePage (o : Bool) (s : State) : exec (.writePage o) s = .next (s.runWritePage o) := rfl

theorem test_hyps_WriteThenReadRoundTrip :
    ∃ (s t u : State) (data extra : List Byte), s.cfg.translate s.arg0Value = some (9, 2) ∧
      data.length = s.cfg.pageDataSize ∧ s.dbuf.Holds 0 data ∧ extra.length = s.cfg.oobFree ∧
      s.obuf.Holds s.cfg.eccSize extra ∧ exec (.writePage true) s = .next t ∧ u.cfg = s.cfg ∧
      u.arg0Value = s.arg0Value ∧ u.oobLenValue = s.cfg.oobSize ∧
      ∀ a, s.cfg.pageBase 9 ≤ a → a < s.cfg.pageBase 9 + s.cfg.pageSize → u.medium.read a = t.medium.read a := by
  obtain ⟨t, ht⟩ : ∃ t, exec (.writePage true) loaded = .next t := ⟨_, exec_writePage true loaded⟩
  exact ⟨loaded, t, { loaded with medium := t.medium }, payload37, [0x11, 0x22, 0x33, 0x44, 0x55], by decide,
    payload37_length, loaded_payload, rfl, by decide, ht, rfl, rfl, rfl, fun _ _ _ => rfl⟩

theorem test_hyps_MovePageCopiesTheRecord :
    ∃ s : State, s.cfg.translate s.arg0Value = some (9, 2) ∧ s.cfg.translate s.arg1Value = some (17, 4) ∧
      2 % s.cfg.planeNum = 4 % s.cfg.planeNum :=
  ⟨loaded, by decide⟩

theorem test_hyps_MovePageChecksInOrder :
    (∃ s : State, s.cfg.translate s.arg0Value = none ∧ s.arg0Value = 16) ∧
    (∃ s : State, s.cfg.translate s.arg1Value = none ∧ s.arg1Value = 16) ∧
    ∃ s : State, s.cfg.translate s.arg0Value = some (9, 2) ∧ s.cfg.translate s.arg1Value = some (12, 3) ∧
      2 % s.cfg.planeNum ≠ 3 % s.cfg.planeNum :=
  ⟨⟨{ loaded with arg0 := 16 }, by decide⟩, ⟨{ loaded with arg1 := 16 }, by decide⟩, ⟨{ loaded with arg1 := 4 }, by decide⟩⟩

theorem test_hyps_MoveThenReadReturnsTheSource :
    (∃ s : State, s.cfg.translate s.arg0Value = some (9, 2) ∧ s.cfg.translate s.arg1Value = some (12, 3) ∧
      s.cfg.planeNum = 2 ∧ 2 % 2 ≠ 3 % 2) ∧
    ∃ s t u : State, s.cfg.translate s.arg0Value = some (9, 2) ∧ s.cfg.translate s.arg1Value = some (17, 4) ∧
      2 % s.cfg.planeNum = 4 % s.cfg.planeNum ∧ exec .movePage s = .next t ∧ u.cfg = t.cfg ∧ u.medium = t.medium ∧
      u.arg0Value = s.arg1Value ∧ u.oobLenValue = s.cfg.oobSize :=
  ⟨⟨{ loaded with arg1 := 4 }, by decide⟩, loaded, loaded.runMovePage,
    { loaded with medium := loaded.runMovePage.medium, arg0 := 9 }, by decide, by decide, by decide, rfl, rfl, rfl,
    by decide, by decide⟩

theorem test_hyps_EraseBlockErasesExactlyTheBlock :
    (∃ s : State, s.cfg.blocksInDevice ≤ s.arg0Value ∧ s.arg0Value = 8) ∧
      ∃ s : State, s.arg0Value < s.cfg.blocksInDevice ∧ s.arg0Value = 7 :=
  ⟨⟨{ marked with arg0 := 8 }, by decide⟩, ⟨{ marked with arg0 := 7 }, by decide⟩⟩

theorem test_hyps_EraseThenReadReturnsErasedBytes :
    ∃ s t u : State, s.arg0Value < s.cfg.blocksInDevice ∧ exec .eraseBlock s = .next t ∧ u.cfg = t.cfg ∧
      u.medium = t.medium ∧ u.cfg.translate u.arg0Value = some (12, s.arg0Value) :=
  ⟨marked, marked.runEraseBlock, { fresh with medium := marked.runEraseBlock.medium, arg0 := 4 }, by decide, rfl, rfl,
    rfl, by decide⟩

theorem test_hyps_CommandsChangeOnlyTheirOutputs :
    ∃ i s t, exec i s = .next t ∧ t.result ≠ s.result :=
  ⟨.translate, fresh, { fresh with result := 8 }, rfl, by decide⟩

theorem test_hyps_CommandsWriteOnlyTheirFootprint :
    ∃ t, exec (.writePage true) loaded = .next t ∧ (∀ r ∈ loaded.footprintOf (.writePage true), Outside 2375 r) ∧
      ∀ r ∈ loaded.footprintOf (.writePage true), Outside 2640 r :=
  ⟨_, rfl, by decide +kernel, by decide +kernel⟩

theorem test_hyps_FailedCommandsChangeOnlyStatus :
    (∃ s t, exec (.readPage true true) s = .next t ∧ t.faultMark = s.faultMark ∧ t.code = .badCommand) ∧
    (∃ s t, exec .movePage s = .next t ∧ t.faultMark = s.faultMark ∧ t.code = .ioError) ∧
    ∃ s t, exec .movePage s = .next t ∧ t.faultMark = s.faultMark ∧ t.code = .invalidMove :=
  ⟨⟨{ loaded with oobLen := 9 }, { loaded with oobLen := 9, code := .badCommand }, rfl, rfl, rfl⟩,
    ⟨{ loaded with arg1 := 16 }, { loaded with arg1 := 16, code := .ioError }, rfl, rfl, rfl⟩,
    ⟨{ loaded with arg1 := 4 }, { loaded with arg1 := 4, code := .invalidMove }, rfl, rfl, rfl⟩⟩

theorem test_hyps_RegisterReadsReturnTheRegister :
    (∃ s : State, s.busy = false ∧ s.statusOwed = false ∧ s.pending = [.access (.read32 0x14)] ∧
      ((0x14 : Word), s.result) ∈ [((0x00 : Word), s.cmd), (0x04, s.status), (0x08, s.arg0), (0x0C, s.arg1),
        (0x10, s.oobLen), (0x14, s.result)]) ∧
    (∃ s : State, s.busy = false ∧ s.statusOwed = false ∧ s.pending = [.access (.read32 0xFC)] ∧
      (0xFC : Word).toNat % 4 = 0) ∧
    (∃ s : State, s.busy = false ∧ s.statusOwed = true ∧ s.pending = [.access (.read32 0x3C)] ∧
      (0x3C : Word).toNat % 4 = 0) ∧
    ∃ s : State, s.busy = false ∧ s.statusOwed = true ∧ s.pending = [.access (.read32 0x04)] ∧
      ((0x04 : Word), s.status) ∈ [((0x00 : Word), s.cmd), (0x04, s.status), (0x08, s.arg0), (0x0C, s.arg1),
        (0x10, s.oobLen), (0x14, s.result)] :=
  ⟨⟨loaded.setPending [.r32 0x14], by decide⟩, ⟨loaded.setPending [.r32 0xFC], by decide⟩,
    ⟨unread [.r32 0x3C], by decide⟩, ⟨unread [.r32 0x04], by decide⟩⟩

theorem test_hyps_GeometryRegistersReadTheGeometry :
    (∃ s : State, s.pending = [.access (.read32 0x40)] ∧ s.cfg.planeNum < 2 ^ 32) ∧
      ∃ s : State, s.busy = true ∧ s.pending = [.access (.read32 0x64)] ∧ s.cfg.pageDataSize * 3 / 256 < 2 ^ 32 :=
  ⟨⟨loaded.setPending [.r32 0x40], by decide⟩, ⟨running 0x303 [.r32 0x64], by decide⟩⟩

theorem test_hyps_RegisterWritesStoreOrAreIgnored :
    ∀ a ∈ ([0x04, 0x08, 0x0C, 0x10, 0x14, 0xFC] : List Word),
      (∃ s : State, s.busy = false ∧ s.statusOwed = false ∧ s.pending = [.access (.write32 a 5)] ∧
        a.toNat % 4 = 0 ∧ a.toNat < 0x100) ∧
      ∃ s : State, s.busy = false ∧ s.statusOwed = true ∧ s.pending = [.access (.write32 a 5)] :=
  fun a ha => ⟨⟨loaded.setPending [.w32 a 5], rfl, rfl, rfl, by fin_cases ha <;> decide, by fin_cases ha <;> decide⟩,
    ⟨unread [.w32 a 5], rfl, rfl, rfl⟩⟩

theorem test_hyps_CommandWriteStartsTheCommand :
    (∃ s : State, s.busy = false ∧ s.statusOwed = false ∧ s.pending = [.access (.write32 0x00 0x303)] ∧
      ¬s.BreaksStartDuty 0x303) ∧
    (∃ s : State, s.busy = false ∧ s.statusOwed = false ∧ s.pending = [.access (.write32 0x00 0x20)] ∧
      s.BreaksStartDuty 0x20 ∧ s.written.arg1 = true) ∧
    (∃ s : State, s.busy = false ∧ s.statusOwed = false ∧ s.pending = [.access (.write32 0x00 0x21)] ∧
      s.BreaksStartDuty 0x21 ∧ s.written.arg0 = true) ∧
    (∃ s : State, s.busy = false ∧ s.statusOwed = false ∧ s.pending = [.access (.write32 0x00 0x202)] ∧
      s.BreaksStartDuty 0x202 ∧ s.written.arg0 = true) ∧
    ∃ s : State, s.busy = false ∧ s.statusOwed = true ∧ s.pending = [.access (.write32 0x00 0x303)] :=
  ⟨⟨loaded.setPending [.w32 0x00 0x303], rfl, rfl, rfl, fun ⟨i, h, h2⟩ => by
      obtain rfl := Except.ok.inj ((by decide : decodeCommand 0x303 = .ok (.writePage true)).symm.trans h)
      revert h2; decide⟩,
    ⟨{ fresh.setPending [.w32 0x00 0x20] with written := ⟨false, true, true⟩ }, rfl, rfl, rfl,
      ⟨.translate, by decide, by decide⟩, rfl⟩,
    ⟨{ fresh.setPending [.w32 0x00 0x21] with written := ⟨true, false, true⟩ }, rfl, rfl, rfl,
      ⟨.planeCheck, by decide, by decide⟩, rfl⟩,
    ⟨{ fresh.setPending [.w32 0x00 0x202] with written := ⟨true, true, false⟩ }, rfl, rfl, rfl,
      ⟨.readPage false true, by decide, by decide⟩, rfl⟩,
    ⟨unread [.w32 0x00 0x303], rfl, rfl, rfl⟩⟩

theorem test_hyps_BufferByteWriteThenRead :
    (∃ s : State, s.busy = false ∧ s.statusOwed = false ∧
      s.pending = [.access (.write8 0x100000FF 0x7A), .access (.read8 0x100000FF)] ∧
      255 < s.cfg.pageDataSize ∧ (0x100000FF : Word).toNat = 0x10000000 + 255) ∧
    ∃ s : State, s.busy = false ∧ s.statusOwed = true ∧
      s.pending = [.access (.write8 0x20000007 0x7A), .access (.read8 0x20000007)] ∧
      7 < s.cfg.oobSize ∧ (0x20000007 : Word).toNat = 0x20000000 + 7 :=
  ⟨⟨fresh.setPending [.w8 0x100000FF 0x7A, .r8 0x100000FF], by decide⟩,
    ⟨unread [.w8 0x20000007 0x7A, .r8 0x20000007], rfl, rfl, rfl, by decide, by decide⟩⟩

theorem test_hyps_UnwrittenBufferReadRaisesTheFault :
    (∃ s : State, s.busy = false ∧ s.statusOwed = false ∧ s.pending = [.access (.read8 0x100000FF)] ∧
      255 < s.cfg.pageDataSize ∧ (s.buffer .dbuf).bufByte 255 = none) ∧
    ∃ s : State, s.busy = false ∧ s.statusOwed = true ∧ s.pending = [.access (.read8 0x20000000)] ∧
      0 < s.cfg.oobSize ∧ (s.buffer .obuf).bufByte 0 = none :=
  ⟨⟨fresh.setPending [.r8 0x100000FF], by decide⟩, ⟨{ unread [.r8 0x20000000] with obuf := [] }, rfl, rfl, rfl, by decide, rfl⟩⟩

theorem test_hyps_BusErrorsChangeNothing :
    ∀ a ∈ [Access.read16 0x00, .write64 0x10000000 0, .read32 0x00000100, .read32 0x00000002, .read8 0x10000100,
        .write8 0x20000008 0, .read8 0x0FFFFFFF], ∃ s : State, s.pending = [.access a] ∧ a.IsBusError s.cfg :=
  fun a ha => ⟨fresh.setPending [.access a], rfl, by revert a; decide⟩

theorem test_hyps_BusyAccessIsAViolation :
    ∀ a ∈ [Access.write32 0x08 3, .read8 0x10000000, .read32 0x14, .write32 0x04 0, .read32 0x3C, .read32 0x68],
      ∃ s : State, s.busy = true ∧ s.pending = [.access a] ∧ ¬a.IsBusError s.cfg ∧ ¬a.IsStatusOrGeometryRead :=
  fun a ha => ⟨running 0x303 [.access a], rfl, rfl, by revert a; decide, by revert a; decide⟩

theorem test_hyps_BusyStatusReadIsAllowed : ∃ s : State, s.busy = true ∧ s.pending = [.access (.read32 0x04)] :=
  ⟨running 0x303 [.r32 0x04], rfl, rfl⟩

theorem test_hyps_EveryPollEnds : ∃ s : State, s.busy = true ∧ s.pending = [.poll] := ⟨running 0x303 [.poll], rfl, rfl⟩

theorem test_hyps_ExpandedCommandRunsToItsEnd :
    (∃ s : State, s.busy = false ∧ s.statusOwed = false ∧
      s.pending = expandCommand (.readPage true true) 1 0 8 ++ [.r8 0x20000000]) ∧
    ∃ s : State, s.busy = false ∧ s.statusOwed = true ∧ s.pending = expandCommand .eccPage 0 0 0 ++ [] :=
  ⟨⟨loaded.setPending (expandCommand (.readPage true true) 1 0 8 ++ [.r8 0x20000000]), rfl, rfl, rfl⟩,
    ⟨unread (expandCommand .eccPage 0 0 0 ++ []), rfl, rfl, rfl⟩⟩

theorem test_hyps_FirstResetState : ∃ a image, a < Geometry.small.mediumSize ∧ image = [(0x00 : Byte)] := ⟨8447, _, by decide, rfl⟩

theorem test_hyps_IdleResetKeepsTheMedium : ∃ s : State, s.Inv ∧ s.busy = false ∧ s.pending = [.reset] :=
  ⟨marked.setPending [.reset], by decide, rfl, rfl⟩

theorem test_hyps_BusyResetScramblesOnlyTheFootprint :
    ∃ s : State, s.Inv ∧ s.busy = true ∧ s.pending = [.reset] ∧ ∀ r ∈ s.footprint, Outside 2375 r :=
  ⟨running 0x303 [.reset], running_inv _ _, rfl, rfl, by decide +kernel⟩

theorem test_hyps_StepKeepsTheInvariant : ∃ s t : State, s.Inv ∧ step s = .next t ∧ s.busy = true :=
  ⟨running 0x20 [.run], _, running_inv _ _, rfl, rfl⟩

theorem test_hyps_FaultMarkIsSticky :
    ∃ s t : State, s.faultMark = some (.uninitialisedBuffer .dbuf 0) ∧ step s = .next t ∧ s.pending = [.reset] :=
  ⟨{ fresh with faultMark := some (.uninitialisedBuffer .dbuf 0), pending := [.reset] }, _, rfl, rfl, rfl⟩

theorem test_hyps_GeometryNeverChanges : ∃ s t : State, step s = .next t ∧ s.pending = [.reset] :=
  ⟨running 0x303 [.reset], _, rfl, rfl⟩

theorem test_hyps_MediumChangesOnlyWhileBusy :
    ∃ s t : State, s.Inv ∧ step s = .next t ∧ t.medium ≠ s.medium :=
  ⟨{ marked with cmd := 0x5, latched := some ⟨0x5, 3, 0, 0⟩, statusOwed := true }, _, by decide, rfl, by decide +kernel⟩

theorem test_hyps_NoStepStops : ∃ s : State, s.pending = [] ∧ s.busy = false := ⟨fresh, rfl, rfl⟩

/-- P6's footprint at its two edges, a destination record, a block, the window's last byte; and an interrupted READ_PAGE,
which has none. -/
theorem test_hyps_FootprintIsTheTable :
    (∀ a ∈ [2376, 2639], ∃ r ∈ (running 0x303 []).footprint, r.1 ≤ a ∧ a < r.1 + r.2) ∧
    (∃ r ∈ (running 0x4 []).footprint, r.1 ≤ 4488 ∧ 4488 < r.1 + r.2) ∧
    (∃ r ∈ (running 0x5 []).footprint, r.1 ≤ 1056 ∧ 1056 < r.1 + r.2) ∧
    (∃ r ∈ (running 0x6 []).footprint, r.1 ≤ 6335 ∧ 6335 < r.1 + r.2) ∧
    (running 0x302 []).footprint = [] ∧ loaded.footprint = [] := by
  decide +kernel

theorem test_hyps_AccessBeforeStatusIsAViolation :
    ∀ a ∈ [Access.write32 0x00 1, .read8 0x10000000, .read32 0x14, .write32 0x04 0, .read32 0x3C, .read32 0x68],
      ∃ s : State, s.busy = false ∧ s.statusOwed = true ∧ s.pending = [.access a] ∧ ¬a.IsBusError s.cfg ∧
        ¬a.IsStatusOrGeometryRead :=
  fun a ha => ⟨unread [.access a], rfl, rfl, rfl, by revert a; decide, by revert a; decide⟩

theorem test_hyps_OnlyStatusReadOrResetEndsTheDuty :
    ∀ m ∈ [Move.r32 0x04, .poll, .reset],
      ∃ s t : State, step s = .next t ∧ s.statusOwed = true ∧ t.statusOwed = false ∧ s.pending = [m] :=
  fun m hm => ⟨unread [m], stepped (unread []) [m], by fin_cases hm <;> rfl, rfl, by revert m; decide, rfl⟩

end Sys2Proof.Tests
end

section
/-! 30_encoding.md rule R105: the layout of the `STATUS` word. -/

namespace Sys2Proof.Machine

theorem State.status_bit31 (s : State) : s.status.getLsbD 31 = s.busy := by
  simp only [State.status, BitVec.getLsbD_append]
  simp

theorem State.status_reserved (s : State) : s.status.extractLsb' 4 27 = 0 := by
  have h : s.status.extractLsb' 4 27 = (BitVec.ofBool s.busy ++ (0 : BitVec 27)).extractLsb' 0 27 :=
    BitVec.extractLsb'_append_eq_of_le (by decide)
  rw [h, BitVec.extractLsb'_append_eq_right]

theorem State.status_code (s : State) : s.status.extractLsb' 0 4 = s.code.value :=
  BitVec.extractLsb'_append_eq_right

/-- Settles O37: `STATUS` is the concatenation `{BUSY, 27'b0, CODE}`, so each field is read off its own piece, and the
code's value is R104's by cases on the code. -/
theorem statusWordLayout : Obligations.StatusWordLayout := by
  intro s
  refine ⟨s.status_bit31, s.status_reserved, ?_⟩
  rw [s.status_code]
  cases s.code <;> rfl

end Sys2Proof.Machine
end

section
/-! 41_translator.md rule R188: TRANSLATE, by the exact sum of R180 and the window check of R181. -/

namespace Sys2Proof

/-- A logical page is out of range exactly when its block is at or past the window's end (R181). -/
theorem Geometry.translate_eq_none_iff (g : Geometry) (lp : Nat) :
    g.translate lp = none ↔ g.blockEnd ≤ g.blockOf (lp + g.blockStart * g.pagesPerBlock) := by
  simp [Option.eq_none_iff_forall_ne_some, Geometry.translate_eq_some_iff]

/-- A translated page is a 32-bit number: the device has at most `2^32` pages (R8, R182). -/
theorem Geometry.translate_lt_two_pow (g : Geometry) {lp pp pb : Nat} (h : g.translate lp = some (pp, pb)) :
    pp < 2 ^ 32 :=
  lt_of_lt_of_le (g.translate_lt h) g.pages_le

namespace Machine

/-- TRANSLATE of a page out of range. -/
theorem exec_translate_of_none {s : State} (h : s.cfg.translate s.arg0Value = none) :
    exec .translate s = .next (s.complete .ioError) := by
  have hop := (s.pageOperand_eq_error_iff _ _).mpr ⟨h, rfl⟩
  simp [exec, execTranslate, State.runTranslate, hop]

/-- TRANSLATE of a page in the window. -/
theorem exec_translate_of_some {s : State} {pp pb : Nat} (h : s.cfg.translate s.arg0Value = some (pp, pb)) :
    exec .translate s = .next ((s.setResult (BitVec.ofNat 32 pp)).complete .ok) := by
  have hop := (s.pageOperand_eq_ok_iff _ _).mpr ⟨pb, h⟩
  simp [exec, execTranslate, State.runTranslate, hop]

/-- Settles O9: the two clauses are the two answers of the translator, and the page that the second stores in `RESULT`
loses no bit, since a page of the window is below `2^32`. -/
theorem translateGivesThePhysicalPage : Obligations.TranslateGivesThePhysicalPage := by
  refine ⟨rfl, ?_⟩
  rintro s pp rfl
  constructor
  · intro hpast
    have ht := (s.cfg.translate_eq_none_iff s.arg0Value).mpr hpast
    exact ⟨_, exec_translate_of_none ht, rfl, rfl⟩
  · intro hin
    have ht := (s.cfg.translate_eq_some_iff s.arg0Value _ _).mpr ⟨rfl, rfl, hin⟩
    exact ⟨_, exec_translate_of_some ht, rfl, rfl,
      (BitVec.toNat_ofNat _ _).trans (Nat.mod_eq_of_lt (s.cfg.translate_lt_two_pow ht))⟩

end Machine

end Sys2Proof
end

section
/-! 42_page_block_ops.md rules R232 and R233: ERASE_BLOCK, by its one check and the erased range of the medium. -/

namespace Sys2Proof.Machine

/-- The check of ERASE_BLOCK fails exactly past the device, with `IO_ERROR`. -/
theorem State.eraseBlockPlan_eq_error_iff (s : State) (e : Stop) :
    s.eraseBlockPlan = .error e ↔ s.cfg.blocksInDevice ≤ s.arg0Value ∧ e = .status .ioError := by
  unfold State.eraseBlockPlan
  split
  · next h => simp [h, eq_comm]
  · next h => simp [h]

/-- ERASE_BLOCK of a block past the device. -/
theorem exec_eraseBlock_of_le {s : State} (h : s.cfg.blocksInDevice ≤ s.arg0Value) :
    exec .eraseBlock s = .next (s.complete .ioError) := by
  have hplan := (s.eraseBlockPlan_eq_error_iff _).mpr ⟨h, rfl⟩
  simp [exec, execEraseBlock, State.runEraseBlock, hplan]

/-- ERASE_BLOCK of a block of the device. -/
theorem exec_eraseBlock_of_lt {s : State} (h : s.arg0Value < s.cfg.blocksInDevice) :
    exec .eraseBlock s = .next ((s.eraseBlockAt s.arg0Value).complete .ok) := by
  have hplan := (s.eraseBlockPlan_eq_ok_iff _).mpr ⟨rfl, h⟩
  simp only [exec, execEraseBlock, State.runEraseBlock, hplan]

/-- Every byte of an erased block reads `0xFF`. -/
theorem State.read_eraseBlockAt_of_lt (s : State) (b : Nat) {k : Nat} (hk : k < s.cfg.blockSize) :
    (s.eraseBlockAt b).medium.read (b * s.cfg.blockSize + k) = 0xFF :=
  (Memory.read_write_erased _ _ _ _).trans (if_pos ⟨Nat.le_add_right _ _, Nat.add_lt_add_left hk _⟩)

/-- A byte outside the block is kept. -/
theorem State.read_eraseBlockAt_of_outside (s : State) (b : Nat) {a : Nat}
    (ha : a < b * s.cfg.blockSize ∨ b * s.cfg.blockSize + s.cfg.blockSize ≤ a) :
    (s.eraseBlockAt b).medium.read a = s.medium.read a := by
  have hout : ¬(s.cfg.blockBase b ≤ a ∧ a < s.cfg.blockBase b + s.cfg.blockSize) := by
    unfold Geometry.blockBase
    omega
  exact (Memory.read_write_erased _ _ _ _).trans (if_neg hout)

/-- Settles O31: the two clauses are the two answers of the command's check; on the second the medium is the old one with
the block's range erased, read inside the range and outside it. -/
theorem eraseBlockErasesExactlyTheBlock : Obligations.EraseBlockErasesExactlyTheBlock := by
  refine ⟨rfl, fun s => ⟨fun hpast => ?_, fun hin => ?_⟩⟩
  · exact ⟨_, exec_eraseBlock_of_le hpast, rfl, rfl⟩
  · exact ⟨_, exec_eraseBlock_of_lt hin, rfl, rfl, fun k hk => s.read_eraseBlockAt_of_lt _ hk,
      fun a ha => s.read_eraseBlockAt_of_outside _ ha⟩

end Sys2Proof.Machine
end

section
/-! 42_page_block_ops.md rule R211: READ_ID. -/

namespace Sys2Proof.Machine

/-- READ_ID stores the geometry's value in `RESULT` and completes `OK`. -/
theorem exec_readId (s : State) :
    exec .readId s = .next ((s.setResult (BitVec.ofNat 32 s.cfg.readIdValue)).complete .ok) := rfl

/-- Settles O7: the value that READ_ID stores loses no bit, since R8 keeps `READ_ID_VALUE` below `2^32`. -/
theorem readIdReturnsItsValue : Obligations.ReadIdReturnsItsValue := by
  refine ⟨rfl, fun s => ⟨_, exec_readId s, rfl, rfl, ?_⟩⟩
  exact (BitVec.toNat_ofNat _ _).trans (Nat.mod_eq_of_lt s.cfg.readIdValue_lt)

end Sys2Proof.Machine
end

section
/-! 30_encoding.md rules R100 to R108: the decoder and the encoder. A word is its four fields, so both directions of the
round trip are read off the fields. -/

namespace Sys2Proof

/-- The flags `(D, O)` of a command word (R102, R103). -/
def Instr.flags : Instr → Bool × Bool
  | .readPage d o => (d, o)
  | .writePage o => (true, o)
  | .readId | .movePage | .eraseBlock | .eraseWindow | .eccCodeword | .eccPage | .eccVerify | .translate
  | .planeCheck => (false, false)

/-- Every command is encoded from its opcode and its flags. -/
theorem encode_eq_packCommand (i : Instr) : encode i = packCommand (opcode i) i.flags.1 i.flags.2 := by
  cases i <;> rfl

/-- A packed command word as a number: the flags weigh `2^8` and `2^9`, and nothing overflows. -/
theorem toNat_packCommand (op : BitVec 8) (d o : Bool) :
    (packCommand op d o).toNat = op.toNat + d.toNat * 256 + o.toNat * 512 := by
  have hop := op.isLt
  unfold packCommand
  rw [BitVec.toNat_ofNat]
  cases d <;> cases o <;> simp <;> omega

theorem fieldOp_eq_iff (w : Word) (op : BitVec 8) : fieldOp w = op ↔ w.toNat % 256 = op.toNat := by
  rw [← BitVec.toNat_inj]
  simp [fieldOp]

theorem fieldD_eq_iff (w : Word) (d : Bool) : fieldD w = d ↔ w.toNat / 256 % 2 = d.toNat := by
  cases d <;> simp [fieldD, BitVec.getLsbD, Nat.testBit_eq_decide_div_mod_eq]

theorem fieldO_eq_iff (w : Word) (o : Bool) : fieldO w = o ↔ w.toNat / 512 % 2 = o.toNat := by
  cases o <;> simp [fieldO, BitVec.getLsbD, Nat.testBit_eq_decide_div_mod_eq]

theorem fieldReserved_eq_zero_iff (w : Word) : fieldReserved w = 0 ↔ w.toNat < 1024 := by
  have hw := w.isLt
  rw [← BitVec.toNat_inj]
  simp only [fieldReserved, BitVec.extractLsb'_toNat, Nat.shiftRight_eq_div_pow, BitVec.ofNat_eq_ofNat,
    BitVec.toNat_ofNat]
  omega

/-- A word is a packed command exactly when its reserved bits are 0 and its fields are those packed. -/
theorem eq_packCommand_iff (w : Word) (op : BitVec 8) (d o : Bool) :
    w = packCommand op d o ↔ fieldReserved w = 0 ∧ fieldOp w = op ∧ fieldD w = d ∧ fieldO w = o := by
  have hop := op.isLt
  have hd := d.toNat_lt
  have ho := o.toNat_lt
  rw [← BitVec.toNat_inj, toNat_packCommand, fieldReserved_eq_zero_iff, fieldOp_eq_iff, fieldD_eq_iff, fieldO_eq_iff]
  omega

/-- The rows of the opcode table whose commands take no flag. -/
theorem flaglessCommand_eq_some_iff (op : BitVec 8) (i : Instr) :
    flaglessCommand op = some i ↔ op = opcode i ∧ (∀ d o, i ≠ .readPage d o) ∧ ∀ o, i ≠ .writePage o := by
  constructor
  · intro h
    unfold flaglessCommand at h
    split at h <;> cases h
    all_goals exact ⟨BitVec.eq_of_toNat_eq ‹_›, by simp, by simp⟩
  · rintro ⟨rfl, hread, hwrite⟩
    cases i with
    | readPage d o => exact absurd rfl (hread d o)
    | writePage o => exact absurd rfl (hwrite o)
    | _ => rfl

/-- The decoder answers a command exactly on the command's opcode and flags. -/
theorem decodeFields_eq_ok_iff (op : BitVec 8) (d o : Bool) (i : Instr) :
    decodeFields op d o = .ok i ↔ op = opcode i ∧ (d, o) = i.flags := by
  constructor
  · intro h
    unfold decodeFields at h
    split at h
    · next hop => cases h; exact ⟨BitVec.eq_of_toNat_eq hop, rfl⟩
    · next hop =>
      cases d
      · cases h
      · cases h; exact ⟨BitVec.eq_of_toNat_eq hop, rfl⟩
    · split at h
      · cases h
      · next j hj =>
        obtain ⟨hop, hread, hwrite⟩ := (flaglessCommand_eq_some_iff op j).mp hj
        split at h
        · cases h
        · next hflags =>
          cases h
          simp only [Bool.or_eq_true, not_or, Bool.not_eq_true] at hflags
          refine ⟨hop, ?_⟩
          rw [hflags.1, hflags.2]
          cases i with
          | readPage d o => exact absurd rfl (hread d o)
          | writePage o => exact absurd rfl (hwrite o)
          | _ => rfl
  · rintro ⟨rfl, hflags⟩
    cases i <;> cases hflags <;> rfl

/-- Settles O2: a decoded word has reserved bits 0 and the command's opcode and flags, and the word with those fields is
the command's encoding. -/
theorem decodeIsExactlyEncode : Obligations.DecodeIsExactlyEncode := by
  intro w i
  rw [encode_eq_packCommand, eq_packCommand_iff]
  unfold decodeCommand
  split
  · next hres => rw [decodeFields_eq_ok_iff, Prod.ext_iff]; simp only [hres, true_and]
  · next hres => simp only [hres, reduceCtorEq, false_and]

/-- The fifteen commands, in the order of R108. -/
def legalCommands : List Instr :=
  [.readId, .readPage false false, .readPage true false, .readPage false true, .readPage true true, .writePage false,
    .writePage true, .movePage, .eraseBlock, .eraseWindow, .eccCodeword, .eccPage, .eccVerify, .translate, .planeCheck]

theorem mem_legalCommands (i : Instr) : i ∈ legalCommands := by
  cases i with
  | readPage d o => cases d <;> cases o <;> decide
  | writePage o => cases o <;> decide
  | _ => decide

/-- Settles O3: the list is that of every command with its encoding, so O2 says it. -/
theorem legalWordsAreTheFifteen : Obligations.LegalWordsAreTheFifteen := by
  intro w i
  have hlist : (w, i) ∈ legalCommands.map (fun j => (encode j, j)) ↔ w = encode i := by
    simp [mem_legalCommands, eq_comm]
  exact (decodeIsExactlyEncode w i).trans hlist.symm

/-- Settles O1: each word is run through the decoder. -/
theorem tabledWordsDecode : Obligations.TabledWordsDecode := by
  exact ⟨rfl, rfl, rfl, rfl, rfl, rfl, rfl, rfl, rfl, rfl⟩

end Sys2Proof
end

section
/-! 60_exceptions.md rule R276 and 70_reset_and_hazards.md rule R291: what a step is, by the next pending move, and what
the block's turn is, by the latch. -/

namespace Sys2Proof.Machine

theorem step_of_nothing_pending {s : State} (h : s.pending = []) : step s = s.run := by
  simp only [step, State.nextMove, h]

theorem step_of_access {s : State} {a : Access} {rest : List Move} (h : s.pending = .access a :: rest) :
    step s = .next ((s.setPending rest).hostAccess a) := by
  simp only [step, State.nextMove, h]

theorem step_of_poll {s : State} {rest : List Move} (h : s.pending = .poll :: rest) :
    step s = .next (s.pollOnce rest) := by
  simp only [step, State.nextMove, h]

theorem step_of_reset {s : State} {rest : List Move} (h : s.pending = .reset :: rest) :
    step s = .next (s.setPending rest).hostReset := by
  simp only [step, State.nextMove, h]

theorem step_of_run {s : State} {rest : List Move} (h : s.pending = .run :: rest) :
    step s = (s.setPending rest).run := by
  simp only [step, State.nextMove, h]

theorem State.run_of_idle {s : State} (h : s.busy = false) : s.run = .next s := by
  simp only [State.run, s.busy_eq_false_iff.mp h]

theorem State.run_of_illegal {s : State} {l : Latched} {e : DecodeError} (hl : s.latched = some l)
    (hd : decodeCommand l.cmd = .error e) : s.run = .next (s.complete .badCommand) := by
  simp only [State.run, hl, hd, State.rejectCommand]

theorem State.run_of_command {s : State} {l : Latched} {i : Instr} (hl : s.latched = some l)
    (hd : decodeCommand l.cmd = .ok i) : s.run = exec i s := by
  simp only [State.run, hl, hd]

/-- Settles O5: on the block's turn the step is `run`, and `run` is `exec` of what the latched word decodes to. -/
theorem stepRunsTheDecodedCommand : Obligations.StepRunsTheDecodedCommand := by
  intro s l i hl hd
  refine ⟨fun hp => ?_, fun rest hp => ?_⟩
  · exact (step_of_nothing_pending hp).trans (State.run_of_command hl hd)
  · exact (step_of_run hp).trans (State.run_of_command (s := s.setPending rest) hl hd)

/-- A word that one of R106's four items names decodes to no command: the fields of a command's word meet none. -/
theorem decodeCommand_of_illegal {w : Word}
    (h : w.extractLsb' 10 22 ≠ 0 ∨
      (w.extractLsb' 0 8).toNat ∉ [0x01, 0x02, 0x03, 0x04, 0x05, 0x06, 0x10, 0x11, 0x12, 0x20, 0x21] ∨
      (w.extractLsb' 0 8 = 0x03 ∧ w.getLsbD 8 = false) ∨
      (w.extractLsb' 0 8 ≠ 0x02 ∧ w.extractLsb' 0 8 ≠ 0x03 ∧ (w.getLsbD 8 = true ∨ w.getLsbD 9 = true))) :
    ∃ e, decodeCommand w = .error e := by
  cases hdec : decodeCommand w with
  | error e => exact ⟨e, rfl⟩
  | ok i =>
    exfalso
    have hw := (decodeIsExactlyEncode w i).mp hdec
    rw [encode_eq_packCommand, eq_packCommand_iff] at hw
    obtain ⟨hres, hop, hd, ho⟩ := hw
    unfold fieldOp at hop
    unfold fieldD at hd
    unfold fieldO at ho
    rw [hop, hd, ho] at h
    rcases h with h | h | h | h
    · exact h hres
    · cases i <;> exact h (by simp [opcode])
    · cases i <;> simp [opcode, Instr.flags] at h
    · cases i <;> simp [opcode, Instr.flags] at h

/-- Settles O4: such a word decodes to no command, so the block's turn rejects it. -/
theorem illegalWordCompletesBadCommand : Obligations.IllegalWordCompletesBadCommand := by
  intro s l hl hillegal
  obtain ⟨e, hd⟩ := decodeCommand_of_illegal hillegal
  refine ⟨fun hp => ?_, fun rest hp => ?_⟩
  · exact (step_of_nothing_pending hp).trans (State.run_of_illegal hl hd)
  · exact (step_of_run hp).trans (State.run_of_illegal (s := s.setPending rest) hl hd)

/-- Settles O57: each move answers a next state, and with nothing pending and nothing latched the block's turn leaves the
state. -/
theorem noStepStops : Obligations.NoStepStops := by
  intro s
  refine ⟨?_, fun hp hidle => (step_of_nothing_pending hp).trans (State.run_of_idle hidle)⟩
  rcases step_cases s with ⟨-, h⟩ | ⟨m, rest, -, ⟨a, -, h⟩ | ⟨-, h⟩ | ⟨-, h⟩ | ⟨-, h⟩⟩
  · exact h ▸ s.run_next
  · exact ⟨_, h⟩
  · exact ⟨_, h⟩
  · exact ⟨_, h⟩
  · exact h ▸ (s.setPending rest).run_next

end Sys2Proof.Machine
end

section
/-! What the end of a command keeps and changes, by cases on the end (30_encoding.md rule R101; 42_page_block_ops.md rule
R210; 70_reset_and_hazards.md rules R291, R297). -/

namespace Sys2Proof.Machine

/-- READ_PAGE ends `OK` or `ECC_MISMATCH` once its checks have passed. -/
theorem State.readPageStatus_cases (s : State) (d : Bool) (pp : Nat) :
    s.readPageStatus d pp = .ok ∨ s.readPageStatus d pp = .eccMismatch := by
  unfold State.readPageStatus
  split <;> simp

/-- The medium that ERASE_WINDOW leaves. -/
theorem State.eraseWindowLoop_medium {s : State} {m : Memory} (h : s.eraseWindowLoop = ({ s with medium := m }, 0)) :
    (∀ a, m.read a =
      if ∃ b ∈ s.cfg.windowBlocks, s.cfg.blockBase b ≤ a ∧ a < s.cfg.blockBase b + s.cfg.blockSize then eraseValue
      else s.medium.read a) ∧
    (s.medium.wf s.cfg.mediumSize → m.wf s.cfg.mediumSize) := by
  obtain ⟨m', h', hread, hwf⟩ := s.eraseWindowLoop_spec
  obtain rfl : m = m' := congrArg (fun p : State × Nat => p.1.medium) (h.symm.trans h')
  exact ⟨hread, hwf⟩

/-- Whatever its end, a command changes at most the status, `RESULT`, the buffers, the medium and the mark, and frees the
latch. -/
theorem Ends.frame {i : Instr} {s t : State} (h : Ends i s t) :
    t = { s with
      code := t.code, result := t.result, dbuf := t.dbuf, obuf := t.obuf, medium := t.medium
      faultMark := t.faultMark, latched := none } := by
  cases h with
  | stopped _ _ e => cases e <;> rfl
  | readPage _ d o pp h => cases d <;> cases o <;> rfl
  | _ => rfl

theorem Ends.cfg_eq {i : Instr} {s t : State} (h : Ends i s t) : t.cfg = s.cfg := by rw [h.frame]

theorem Ends.latched_eq {i : Instr} {s t : State} (h : Ends i s t) : t.latched = none := by rw [h.frame]

theorem Ends.statusOwed_eq {i : Instr} {s t : State} (h : Ends i s t) : t.statusOwed = s.statusOwed := by
  rw [h.frame]

/-- A command keeps the mark, or it is aborted with a fault. -/
theorem Ends.mark_cases {i : Instr} {s t : State} (h : Ends i s t) :
    t.faultMark = s.faultMark ∨ ∃ f, t = s.abort f := by
  cases h with
  | stopped _ _ e =>
    cases e with
    | status c => exact .inl rfl
    | fault f => exact .inr ⟨f, rfl⟩
  | readPage _ d o pp h => exact .inl (by cases d <;> cases o <;> rfl)
  | _ => exact .inl rfl

/-- The block's turn leaves an idle state, and ends a command: a word that is none stops as a failing check does. -/
theorem State.run_ends {s t : State} (h : s.run = .next t) : (s.busy = false ∧ t = s) ∨ ∃ i, Ends i s t := by
  rcases s.run_cases with ⟨hidle, hrun⟩ | ⟨l, e, -, -, hrun⟩ | ⟨l, i, u, -, -, hrun, hexec, hends⟩
  · cases hrun.symm.trans h
    exact .inl ⟨s.busy_eq_false_iff.mpr hidle, rfl⟩
  · cases hrun.symm.trans h
    exact .inr ⟨.readId, .stopped _ s (.status .badCommand)⟩
  · cases (hrun.trans hexec).symm.trans h
    exact .inr ⟨i, hends⟩

/-- Settles O6: every command has an end, every end frees the latch, and the only ends that change the mark abort. -/
theorem everyCommandEndsIdle : Obligations.EveryCommandEndsIdle := by
  intro i s
  obtain ⟨t, ht, hends⟩ := exec_ends i s
  refine ⟨t, ht, t.busy_eq_false_iff.mpr hends.latched_eq, fun hmark => ?_⟩
  rcases hends.mark_cases with hkept | ⟨f, rfl⟩
  · exact absurd hkept hmark
  · rfl

/-- Which commands change `RESULT`. -/
theorem Ends.result_of_ne {i : Instr} {s t : State} (h : Ends i s t) (hne : t.result ≠ s.result) :
    i = .readId ∨ (i = .translate ∧ t.code = .ok) ∨ (i = .eccCodeword ∧ t.code = .ok) ∨ i = .eraseWindow := by
  cases h with
  | stopped _ _ e => exact absurd (s.stopWith_result e) hne
  | readId => exact .inl rfl
  | readPage _ d o pp h => exact absurd (by rw [s.loadPage_frame]; rfl) hne
  | eraseWindow _ m h => exact .inr (.inr (.inr rfl))
  | eccCodeword _ d h => exact .inr (.inr (.inl ⟨rfl, rfl⟩))
  | translate _ pp h => exact .inr (.inl ⟨rfl, rfl⟩)
  | _ => exact absurd rfl hne

/-- Only READ_PAGE with `D = 1` changes `DBUF`. -/
theorem Ends.dbuf_of_ne {i : Instr} {s t : State} (h : Ends i s t) (hne : t.dbuf ≠ s.dbuf) :
    ∃ o, i = .readPage true o := by
  cases h with
  | stopped _ _ e => exact absurd (s.stopWith_dbuf e) hne
  | readPage _ d o pp h =>
    cases d with
    | true => exact ⟨o, rfl⟩
    | false => cases o <;> exact absurd rfl hne
  | _ => exact absurd rfl hne

/-- Only ECC_PAGE and READ_PAGE with `O = 1` change `OBUF`. -/
theorem Ends.obuf_of_ne {i : Instr} {s t : State} (h : Ends i s t) (hne : t.obuf ≠ s.obuf) :
    i = .eccPage ∨ ∃ d, i = .readPage d true := by
  cases h with
  | stopped _ _ e => exact absurd (s.stopWith_obuf e) hne
  | readPage _ d o pp h =>
    cases o with
    | true => exact .inr ⟨d, rfl⟩
    | false => cases d <;> exact absurd rfl hne
  | eccPage _ data h => exact .inl rfl
  | _ => exact absurd rfl hne

/-- Only the four writing commands change the medium. -/
theorem Ends.medium_of_ne {i : Instr} {s t : State} (h : Ends i s t) (hne : t.medium ≠ s.medium) :
    i = .movePage ∨ i = .eraseBlock ∨ i = .eraseWindow ∨ ∃ o, i = .writePage o := by
  cases h with
  | stopped _ _ e => exact absurd (s.stopWith_medium e) hne
  | readPage _ d o pp h => cases d <;> cases o <;> exact absurd rfl hne
  | writePage _ o w h => exact .inr (.inr (.inr ⟨o, rfl⟩))
  | movePage _ fp tp h => exact .inl rfl
  | eraseBlock _ b h => exact .inr (.inl rfl)
  | eraseWindow _ m h => exact .inr (.inr (.inl rfl))
  | _ => exact absurd rfl hne

/-- Settles O34: the fields no command changes are the frame of its end; for each of the others, the ends that change
it. -/
theorem commandsChangeOnlyTheirOutputs : Obligations.CommandsChangeOnlyTheirOutputs := by
  intro i s t h
  have hends := ends_of_exec h
  refine ⟨?_, hends.result_of_ne, hends.dbuf_of_ne, hends.obuf_of_ne, hends.medium_of_ne⟩
  rw [hends.frame]
  exact ⟨rfl, rfl, rfl, rfl, rfl, rfl, rfl, rfl, rfl, rfl⟩

/-- The medium that the two transfers of WRITE_PAGE leave (R220). -/
def State.storedMedium (s : State) (w : PageWrite) : Memory :=
  (s.medium.write (s.cfg.pageBase w.page) w.payload).write (s.cfg.oobBase w.page) w.oob

/-- The two transfers touch no byte outside the page record. -/
theorem State.read_storedMedium_outside {s : State} {o : Bool} {w : PageWrite} {a : Nat} (h : s.writePagePlan o = .ok w)
    (ha : Outside a (s.cfg.pageBase w.page, s.cfg.pageSize)) : (s.storedMedium w).read a = s.medium.read a := by
  obtain ⟨hpay, hoob⟩ := State.length_oob_of_writePagePlan h
  have hend := s.cfg.oobBase_add w.page
  have hstart : s.cfg.oobBase w.page = s.cfg.pageBase w.page + s.cfg.pageDataSize := rfl
  dsimp only [Outside] at ha
  rw [State.storedMedium, Memory.read_write_outside _ _ _ _ (by omega), Memory.read_write_outside _ _ _ _ (by omega)]

/-- Settles O35: the four writing ends write the ranges of their footprints, and the others write no medium byte. -/
theorem commandsWriteOnlyTheirFootprint : Obligations.CommandsWriteOnlyTheirFootprint := by
  intro i s t a hexec hout
  cases ends_of_exec hexec with
  | stopped _ _ e => rw [s.stopWith_medium e]
  | readPage _ d o pp h => rw [s.loadPage_frame]; rfl
  | writePage _ o w h => exact State.read_storedMedium_outside h (hout _ (by simp [State.footprintOf, h]))
  | movePage _ fp tp h =>
    have ha : Outside a (s.cfg.pageBase tp, s.cfg.pageSize) := hout _ (by simp [State.footprintOf, h])
    exact Memory.read_write_outside _ _ _ _ (by simpa [State.memRead] using ha)
  | eraseBlock _ b h =>
    have ha : Outside a (s.cfg.blockBase b, s.cfg.blockSize) := hout _ (by simp [State.footprintOf, h])
    exact Memory.read_write_outside _ _ _ _ (by simpa using ha)
  | eraseWindow _ m h =>
    refine ((State.eraseWindowLoop_medium h).1 a).trans (if_neg ?_)
    rintro ⟨b, hb, hin⟩
    have ha : Outside a (s.cfg.blockBase b, s.cfg.blockSize) := hout _ (List.mem_map.mpr ⟨b, hb, rfl⟩)
    dsimp only [Outside] at ha
    omega
  | _ => rfl

/-- Settles O36: a failing status comes from an early stop, or from PLANE_CHECK, and both change nothing but `STATUS`. -/
theorem failedCommandsChangeOnlyStatus : Obligations.FailedCommandsChangeOnlyStatus := by
  intro i s t hexec hmark hcode
  cases ends_of_exec hexec with
  | stopped _ _ e =>
    refine ⟨?_, fun _ => s.stopWith_result e⟩
    cases e with
    | status c => rfl
    | fault f =>
      show s.abort f = { s with latched := none }
      rw [← hmark]
      rfl
  | readPage _ d o pp h => rcases s.readPageStatus_cases d pp with hc | hc <;> simp [hc] at hcode
  | eccVerify _ c h => exact ⟨rfl, fun _ => rfl⟩
  | planeCheck _ c h => exact ⟨rfl, fun _ => rfl⟩
  | _ => simp at hcode

end Sys2Proof.Machine
end

section
/-! The invariant (Safety.lean): every command, every host access and every reset keeps it, so every step does. -/

namespace Sys2Proof.Machine

/-- An idle state meets the invariant as soon as its stores are in canonical form. -/
theorem State.inv_of_idle {s : State} (hidle : s.latched = none) (hmedium : s.medium.wf s.cfg.mediumSize)
    (hdbuf : s.dbuf.bufWf s.cfg.pageDataSize) (hobuf : s.obuf.bufWf s.cfg.oobSize) : s.Inv :=
  ⟨hmedium, hdbuf, hobuf, .inl hidle, fun hbusy => by simp [State.busy, hidle] at hbusy⟩

/-! ### Commands -/

/-- The codes of a whole payload fill the first `ECC_SIZE` bytes of the OOB region (R7, R151). -/
theorem length_computePageEcc_of_payload (g : Geometry) {data : List Byte} (h : data.length = g.pageDataSize) :
    (computePageEcc data).length = g.eccSize := by
  rw [length_computePageEcc, h, g.eccSize_eq]
  rfl

theorem Ends.medium_wf {i : Instr} {s t : State} (h : Ends i s t) (hwf : s.medium.wf s.cfg.mediumSize) :
    t.medium.wf s.cfg.mediumSize := by
  cases h with
  | stopped _ _ e => rwa [s.stopWith_medium e]
  | readPage _ d o pp h => rwa [s.loadPage_frame]
  | writePage _ o w h =>
    obtain ⟨hpay, hoob⟩ := State.length_oob_of_writePagePlan h
    obtain ⟨⟨pb, ht⟩, -⟩ := (s.writePagePlan_eq_ok_iff o w).mp h
    have hfit := s.cfg.page_fits (s.cfg.translate_lt ht)
    have hend := s.cfg.oobBase_add w.page
    have hsize : s.cfg.pageSize = s.cfg.pageDataSize + s.cfg.oobSize := rfl
    exact Memory.wf_write (Memory.wf_write hwf _ _ (by omega)) _ _ (by omega)
  | movePage _ fp tp h =>
    obtain ⟨-, ⟨tb, ht⟩, -⟩ := (s.movePagePlan_eq_ok_iff fp tp).mp h
    exact Memory.wf_write hwf _ _ (by simpa [State.memRead] using s.cfg.page_fits (s.cfg.translate_lt ht))
  | eraseBlock _ b h =>
    obtain ⟨rfl, hb⟩ := (s.eraseBlockPlan_eq_ok_iff b).mp h
    exact Memory.wf_write hwf _ _ (by simpa using s.cfg.block_fits hb)
  | eraseWindow _ m h => exact (State.eraseWindowLoop_medium h).2 hwf
  | _ => exact hwf

theorem Ends.dbuf_wf {i : Instr} {s t : State} (h : Ends i s t) (hwf : s.dbuf.bufWf s.cfg.pageDataSize) :
    t.dbuf.bufWf s.cfg.pageDataSize := by
  cases h with
  | stopped _ _ e => rwa [s.stopWith_dbuf e]
  | readPage _ d o pp h =>
    cases d with
    | false => cases o <;> exact hwf
    | true => cases o <;> exact Memory.bufWf_bufWrite hwf _ _ (by simp [State.pagePayload, State.memRead])
  | _ => exact hwf

theorem Ends.obuf_wf {i : Instr} {s t : State} (h : Ends i s t) (hwf : s.obuf.bufWf s.cfg.oobSize) :
    t.obuf.bufWf s.cfg.oobSize := by
  cases h with
  | stopped _ _ e => rwa [s.stopWith_obuf e]
  | readPage _ d o pp h =>
    cases o with
    | false => cases d <;> exact hwf
    | true => cases d <;> exact Memory.bufWf_bufWrite hwf _ _ (by simp [State.pageOob, State.memRead])
  | eccPage _ data h =>
    have hlen := ((s.bufSlice_eq_ok_iff .dbuf 0 _ data).mp h).1
    have hecc := length_computePageEcc_of_payload s.cfg hlen
    have hle := s.cfg.eccSize_le_oobSize
    exact Memory.bufWf_bufWrite hwf _ _ (by omega)
  | _ => exact hwf

/-- A command keeps the invariant: its stores stay in canonical form, and it ends idle. -/
theorem Ends.inv {i : Instr} {s t : State} (h : Ends i s t) (hinv : s.Inv) : t.Inv := by
  obtain ⟨hmedium, hdbuf, hobuf, -, -⟩ := hinv
  have hcfg := h.cfg_eq
  exact State.inv_of_idle h.latched_eq (hcfg ▸ h.medium_wf hmedium) (hcfg ▸ h.dbuf_wf hdbuf) (hcfg ▸ h.obuf_wf hobuf)

/-- The block's turn keeps the invariant. -/
theorem State.run_inv {s t : State} (h : s.run = .next t) (hinv : s.Inv) : t.Inv := by
  rcases State.run_ends h with ⟨-, rfl⟩ | ⟨i, hends⟩
  · exact hinv
  · exact hends.inv hinv

/-! ### Host accesses -/

/-- A buffer byte that the port writes is inside its buffer (R67). -/
theorem Access.index_lt_of_writeBuf {g : Geometry} {a : Access} {b : BufferName} {i : Nat} {v : Byte}
    (h : a.portOp? g = some (.writeBuf b i v)) : i < b.size g := by
  cases a <;> simp only [Access.portOp?, Option.map_eq_some_iff, reduceCtorEq, and_false, exists_false] at h
  obtain ⟨⟨b', i'⟩, hat, heq⟩ := h
  cases heq
  rcases (bufByteAt_eq_some_iff g _ b' i').mp hat with ⟨rfl, hlt, -⟩ | ⟨rfl, hlt, -⟩ <;> exact hlt

theorem State.settle_inv {s : State} (hinv : s.Inv) (r : HostReg) : (s.settle r).Inv := by
  obtain ⟨hmedium, hdbuf, hobuf, hlatch, howed⟩ := hinv
  cases r with
  | status =>
    refine ⟨hmedium, hdbuf, hobuf, hlatch, fun hbusy => ?_⟩
    rw [State.busy_settle] at hbusy
    simp [howed hbusy, hbusy]
  | _ => exact ⟨hmedium, hdbuf, hobuf, hlatch, howed⟩

/-- A register write of an idle block: only that of `CMD` latches a command, with the registers as they are. -/
theorem State.writeReg_inv {s : State} (hinv : s.Inv) (hidle : s.busy = false) (v : Word) (r : HostReg) :
    (s.writeReg v r).Inv := by
  obtain ⟨hmedium, hdbuf, hobuf, -, -⟩ := hinv
  have hlatched := s.busy_eq_false_iff.mp hidle
  cases r with
  | cmd => exact ⟨hmedium, hdbuf, hobuf, .inr rfl, fun _ => rfl⟩
  | _ => exact State.inv_of_idle hlatched hmedium hdbuf hobuf

theorem State.bufWrite_inv {s : State} (hinv : s.Inv) {b : BufferName} {i : Nat} (hi : i < b.size s.cfg) (v : Byte) :
    (s.bufWrite b i [v]).Inv := by
  obtain ⟨hmedium, hdbuf, hobuf, hlatch, howed⟩ := hinv
  cases b with
  | dbuf => exact ⟨hmedium, Memory.bufWf_bufWrite hdbuf _ _ hi, hobuf, hlatch, howed⟩
  | obuf => exact ⟨hmedium, hdbuf, Memory.bufWf_bufWrite hobuf _ _ hi, hlatch, howed⟩

theorem State.portAccess_readBuf_of_unwritten {s : State} {b : BufferName} {i : Nat}
    (h : (s.buffer b).bufByte i = none) :
    s.portAccess (.readBuf b i) = (s.raise (.uninitialisedBuffer b i)).respond .noValue := by
  simp only [State.portAccess, h]

theorem State.portAccess_readBuf_of_written {s : State} {b : BufferName} {i : Nat} {v : Byte}
    (h : (s.buffer b).bufByte i = some v) : s.portAccess (.readBuf b i) = s.respond (.byte v) := by
  simp only [State.portAccess, h]

/-- What the port takes keeps the invariant: the invariant does not see the mark or the response. -/
theorem State.portAccess_inv {s : State} (hinv : s.Inv) {op : PortOp}
    (hallowed : s.busy = false ∨ op.allowedWhileBusy = true)
    (hindex : ∀ b i v, op = .writeBuf b i v → i < b.size s.cfg) : (s.portAccess op).Inv := by
  cases op with
  | readReg r => exact State.settle_inv hinv r
  | writeReg r v =>
    have hidle : s.busy = false := hallowed.resolve_right Bool.false_ne_true
    rcases s.checkStart_cases v r with h | ⟨-, -, h⟩
    · simp only [State.portAccess, h]
      exact State.writeReg_inv hinv hidle v r
    · simp only [State.portAccess, h]
      exact State.writeReg_inv (s := s.raise _) hinv hidle v r
  | readBuf b i =>
    cases hbyte : (s.buffer b).bufByte i with
    | none => exact (State.portAccess_readBuf_of_unwritten hbyte) ▸ hinv
    | some v => exact (State.portAccess_readBuf_of_written hbyte) ▸ hinv
  | writeBuf b i v => exact State.bufWrite_inv hinv (hindex b i v rfl) v

theorem State.hostAccess_inv {s : State} (hinv : s.Inv) (a : Access) : (s.hostAccess a).Inv := by
  rcases s.hostAccess_cases a with ⟨-, h⟩ | ⟨op, -, -, -, h⟩ | ⟨op, hop, hallowed, h⟩ <;> rw [h]
  · exact hinv
  · exact hinv
  · have hindex : ∀ b i v, op = .writeBuf b i v → i < b.size s.cfg := by
      rintro b i v rfl
      exact Access.index_lt_of_writeBuf hop
    rcases s.checkCompletion_cases a op with hc | ⟨-, -, hc⟩ <;> rw [hc]
    · exact State.portAccess_inv hinv hallowed hindex
    · exact State.portAccess_inv (s := s.raise _) hinv hallowed hindex

/-! ### Reset -/

/-- What a reset leaves: the table of R290, over the medium that the interruption leaves (R297). -/
theorem State.hostReset_spec (s : State) :
    ∃ (m : Memory) (n : Nat), s.hostReset = { s with
        cmd := 0, code := .ok, arg0 := 0, arg1 := 0, oobLen := 0, result := 0, dbuf := [], obuf := []
        medium := m.refill s.cfg.mediumSize, latched := none, freeCount := n, statusOwed := false
        written := ⟨false, false, false⟩ } ∧
      (∀ a, (∀ r ∈ s.footprint, Outside a r) → m.read a = s.medium.read a) ∧
      (s.medium.wf s.cfg.mediumSize → m.wf s.cfg.mediumSize) := by
  obtain ⟨m, n, hint, hread, hwf⟩ := s.interrupt_spec
  exact ⟨m, n, by rw [State.hostReset, hint]; rfl, hread, hwf⟩

theorem State.hostReset_inv {s : State} (hinv : s.Inv) : s.hostReset.Inv := by
  obtain ⟨m, n, h, -, hwf⟩ := s.hostReset_spec
  rw [h]
  exact State.inv_of_idle rfl (Memory.wf_refill (hwf hinv.1)) (Memory.bufWf_nil _) (Memory.bufWf_nil _)

/-- Settles O52: each of the moves keeps the invariant, which does not see the move list. -/
theorem stepKeepsTheInvariant : Obligations.StepKeepsTheInvariant := by
  intro s t hinv h
  rcases step_cases s with ⟨-, hs⟩ | ⟨m, rest, -, ⟨a, -, hs⟩ | ⟨-, hs⟩ | ⟨-, hs⟩ | ⟨-, hs⟩⟩
  · exact State.run_inv (hs.symm.trans h) hinv
  · cases hs.symm.trans h
    exact State.hostAccess_inv (s := s.setPending rest) hinv a
  · cases hs.symm.trans h
    exact State.hostAccess_inv hinv Access.readStatus
  · cases hs.symm.trans h
    exact State.hostReset_inv (s := s.setPending rest) hinv
  · exact State.run_inv (s := s.setPending rest) (hs.symm.trans h) hinv

/-- Settles O53: right after the first reset nothing is latched, the buffers are empty and the medium is the image's
fill. -/
theorem resetMeetsTheInvariant : Obligations.ResetMeetsTheInvariant := by
  have hreset : ∀ (g : Geometry) (image : List Byte), (State.resetOf g image).Inv := fun g image =>
    State.inv_of_idle rfl (Memory.wf_ofImage _ _) (Memory.bufWf_nil _) (Memory.bufWf_nil _)
  exact ⟨hreset, hreset _ _⟩

end Sys2Proof.Machine
end

section
/-! Rules of the whole machine and of reset (10_state.md rules R20, R34, R37; 70_reset_and_hazards.md rules R290, R297). -/

namespace Sys2Proof.Machine

/-! ### The geometry and the fault mark -/

theorem State.hostAccess_cfg (s : State) (a : Access) : (s.hostAccess a).cfg = s.cfg := (s.hostAccess_frame a).1

theorem State.hostAccess_medium (s : State) (a : Access) : (s.hostAccess a).medium = s.medium := by
  obtain ⟨-, -, -, h, -⟩ := s.hostAccess_frame a
  exact h

theorem State.pollOnce_cfg (s : State) (rest : List Move) : (s.pollOnce rest).cfg = s.cfg :=
  s.hostAccess_cfg Access.readStatus

theorem State.hostReset_cfg (s : State) : s.hostReset.cfg = s.cfg := by
  obtain ⟨m, n, h, -⟩ := s.hostReset_spec
  rw [h]

theorem State.run_cfg {s t : State} (h : s.run = .next t) : t.cfg = s.cfg := by
  rcases State.run_ends h with ⟨-, rfl⟩ | ⟨i, hends⟩
  · rfl
  · exact hends.cfg_eq

/-- Settles O55: none of the moves changes the geometry. -/
theorem geometryNeverChanges : Obligations.GeometryNeverChanges := by
  intro s t h
  rcases step_cases s with ⟨-, hs⟩ | ⟨m, rest, -, ⟨a, -, hs⟩ | ⟨-, hs⟩ | ⟨-, hs⟩ | ⟨-, hs⟩⟩
  · exact State.run_cfg (hs.symm.trans h)
  · cases hs.symm.trans h
    exact (s.setPending rest).hostAccess_cfg a
  · cases hs.symm.trans h
    exact s.pollOnce_cfg rest
  · cases hs.symm.trans h
    exact (s.setPending rest).hostReset_cfg
  · exact State.run_cfg (s := s.setPending rest) (hs.symm.trans h)

/-- With a mark set, raising another fault leaves the state. -/
theorem State.raise_of_marked {s : State} {f : Fault} (h : s.faultMark = some f) (g : Fault) : s.raise g = s := by
  have hkept : some (s.faultMark.getD g) = s.faultMark := by simp [h]
  rw [State.raise, hkept]

theorem State.run_mark {s t : State} {f : Fault} (hf : s.faultMark = some f) (h : s.run = .next t) :
    t.faultMark = some f := by
  rcases State.run_ends h with ⟨-, rfl⟩ | ⟨i, hends⟩
  · exact hf
  · rcases hends.mark_cases with hkept | ⟨g, rfl⟩
    · exact hkept.trans hf
    · simp [hf]

theorem State.writeReg_mark (s : State) (v : Word) (r : HostReg) : (s.writeReg v r).faultMark = s.faultMark := by
  rw [s.writeReg_frame]

theorem State.portAccess_mark {s : State} {f : Fault} (hf : s.faultMark = some f) (op : PortOp) :
    (s.portAccess op).faultMark = some f := by
  cases op with
  | readReg r => simp [State.portAccess, hf]
  | writeReg r v =>
    have hstart : s.checkStart v r = s := by
      rcases s.checkStart_cases v r with h | ⟨-, -, h⟩
      · exact h
      · rw [h, State.raise_of_marked hf]
    simp [State.portAccess, hstart, State.writeReg_mark, hf]
  | readBuf b i =>
    cases hbyte : (s.buffer b).bufByte i with
    | none => simp [State.portAccess_readBuf_of_unwritten hbyte, hf]
    | some v => simp [State.portAccess_readBuf_of_written hbyte, hf]
  | writeBuf b i v => simp [State.portAccess, hf]

theorem State.hostAccess_mark {s : State} {f : Fault} (hf : s.faultMark = some f) (a : Access) :
    (s.hostAccess a).faultMark = some f := by
  rcases s.hostAccess_cases a with ⟨-, h⟩ | ⟨op, -, -, -, h⟩ | ⟨op, -, -, h⟩ <;> rw [h]
  · simp [hf]
  · simp [hf]
  · have hcheck : s.checkCompletion a op = s := by
      rcases s.checkCompletion_cases a op with hc | ⟨-, -, hc⟩
      · exact hc
      · rw [hc, State.raise_of_marked hf]
    rw [hcheck]
    exact State.portAccess_mark hf op

theorem State.hostReset_mark (s : State) : s.hostReset.faultMark = s.faultMark := by
  obtain ⟨m, n, h, -⟩ := s.hostReset_spec
  rw [h]

/-- Settles O54: `raise` keeps a mark that is set, and nothing else touches the mark. -/
theorem faultMarkIsSticky : Obligations.FaultMarkIsSticky := by
  intro s t f hf h
  rcases step_cases s with ⟨-, hs⟩ | ⟨m, rest, -, ⟨a, -, hs⟩ | ⟨-, hs⟩ | ⟨-, hs⟩ | ⟨-, hs⟩⟩
  · exact State.run_mark hf (hs.symm.trans h)
  · cases hs.symm.trans h
    exact State.hostAccess_mark (s := s.setPending rest) hf a
  · cases hs.symm.trans h
    exact State.hostAccess_mark hf Access.readStatus
  · cases hs.symm.trans h
    exact ((s.setPending rest).hostReset_mark).trans hf
  · exact State.run_mark (s := s.setPending rest) hf (hs.symm.trans h)

/-! ### Reset -/

/-- A reset of an idle block, whose medium is within its size, clears the registers and the buffers (R290). -/
theorem State.hostReset_of_idle {s : State} (hinv : s.Inv) (hidle : s.busy = false) :
    s.hostReset = { s with
      cmd := 0, code := .ok, arg0 := 0, arg1 := 0, oobLen := 0, result := 0, dbuf := [], obuf := []
      latched := none, statusOwed := false, written := ⟨false, false, false⟩ } := by
  obtain ⟨⟨-, hbelow, -⟩, -⟩ := hinv
  rw [State.hostReset, s.interrupt_idle hidle, State.resetFields, Memory.refill_eq_self hbelow]
  rfl

/-- Settles O50: an idle block has nothing to interrupt, and its medium nothing to fill. -/
theorem idleResetKeepsTheMedium : Obligations.IdleResetKeepsTheMedium := by
  intro s rest hinv hidle hp
  rw [step_of_reset hp, State.hostReset_of_idle (s := s.setPending rest) hinv hidle, ← s.busy_eq_false_iff.mp hidle]
  rfl

/-- Settles O51: the interruption keeps every byte outside the footprint, and the fill of R65 changes nothing of a medium
within its size. -/
theorem busyResetScramblesOnlyTheFootprint : Obligations.BusyResetScramblesOnlyTheFootprint := by
  intro s rest hinv hbusy hp
  obtain ⟨m, n, hreset, hread, hwf⟩ := (s.setPending rest).hostReset_spec
  obtain ⟨-, hbelow, -⟩ := hwf hinv.1
  refine ⟨_, step_of_reset hp, ?_, fun a ha => ?_⟩
  · rw [hreset]
    rfl
  · rw [hreset]
    exact (congrArg (Memory.read · a) (Memory.refill_eq_self hbelow)).trans (hread a ha)

theorem State.resetOf_status (g : Geometry) (image : List Byte) : (State.resetOf g image).status = 0 := by
  simp [State.status, State.busy, StatusCode.value]

/-- Settles O49: the fields are those of `State.resetOf`, and the medium reads as the image's fill. -/
theorem firstResetState : Obligations.FirstResetState := by
  rintro g image t rfl
  refine ⟨rfl, rfl, State.resetOf_status g image, rfl, rfl, rfl, rfl, fun b k => ?_, rfl, rfl, rfl, rfl, fun a ha => ?_⟩
  · cases b <;> rfl
  · rw [State.resetOf_medium, Memory.read_ofImage, if_pos ha]
    split
    · next h => rw [List.getElem?_eq_getElem h]; rfl
    · next h => rw [List.getElem?_eq_none (Nat.le_of_not_lt h)]; rfl

/-- Settles O56: no host access and no `POLL` touches the medium, and the block's turn and a reset leave it when the block
is idle. -/
theorem mediumChangesOnlyWhileBusy : Obligations.MediumChangesOnlyWhileBusy := by
  intro s t hinv h hne
  rcases step_cases s with ⟨hp, hs⟩ | ⟨m, rest, hp, ⟨a, rfl, hs⟩ | ⟨rfl, hs⟩ | ⟨rfl, hs⟩ | ⟨rfl, hs⟩⟩
  · cases hb : s.busy with
    | true => exact ⟨rfl, .inl hp⟩
    | false =>
      cases (hs.trans (State.run_of_idle hb)).symm.trans h
      exact absurd rfl hne
  · cases hs.symm.trans h
    exact absurd ((s.setPending rest).hostAccess_medium a) hne
  · cases hs.symm.trans h
    exact absurd (s.hostAccess_medium Access.readStatus) hne
  · cases hb : s.busy with
    | true => exact ⟨rfl, .inr ⟨_, rest, hp, .inr rfl⟩⟩
    | false =>
      cases hs.symm.trans h
      exact absurd (by rw [State.hostReset_of_idle (s := s.setPending rest) hinv hb]; rfl) hne
  · cases hb : s.busy with
    | true => exact ⟨rfl, .inr ⟨_, rest, hp, .inl rfl⟩⟩
    | false =>
      cases (hs.trans (State.run_of_idle (s := s.setPending rest) hb)).symm.trans h
      exact absurd rfl hne

end Sys2Proof.Machine
end

section
/-! 41_translator.md rules R180 to R190: the translator as a shift by `BLOCK_START` whole blocks, the plane check,
and the bytes of the window. -/

namespace Sys2Proof

/-- The translator adds `BLOCK_START` whole blocks (R180). -/
theorem Geometry.blockOf_shifted (g : Geometry) (lp : Nat) :
    g.blockOf (lp + g.blockStart * g.pagesPerBlock) = lp / g.pagesPerBlock + g.blockStart :=
  Nat.add_mul_div_right _ _ g.pagesPerBlock_pos

theorem Geometry.blockOf_of_translate (g : Geometry) {lp pp pb : Nat} (h : g.translate lp = some (pp, pb)) :
    pb = g.blockOf pp ∧ g.blockOf pp = lp / g.pagesPerBlock + g.blockStart := by
  obtain ⟨rfl, hpb, -⟩ := (g.translate_eq_some_iff lp pp pb).mp h
  exact ⟨hpb, g.blockOf_shifted lp⟩

/-- A logical page is past the window exactly when it is at or past `BLOCK_TOTAL * PAGES_PER_BLOCK` (R182). -/
theorem Geometry.translate_eq_none_iff_le (g : Geometry) (lp : Nat) :
    g.translate lp = none ↔ g.blockTotal * g.pagesPerBlock ≤ lp := by
  have hwindow := g.blockStart_lt
  rw [g.translate_eq_none_iff, g.blockOf_shifted, ← Nat.le_div_iff_mul_le g.pagesPerBlock_pos]
  unfold Geometry.blockTotal
  omega

theorem Geometry.exists_translate_iff (g : Geometry) (lp : Nat) :
    (∃ t, g.translate lp = some t) ↔ lp < g.blockTotal * g.pagesPerBlock := by
  rw [← Option.ne_none_iff_exists', Ne, g.translate_eq_none_iff_le, Nat.not_le]

/-- Settles O8: success is the window check, which the shift by `BLOCK_START` blocks turns into a bound on the logical
page; the rest are the bounds of a translated page. -/
theorem translateSucceedsExactlyInTheWindow : Obligations.TranslateSucceedsExactlyInTheWindow := by
  intro g lp
  refine ⟨g.exists_translate_iff lp, fun pp pb h => ?_, ?_⟩
  · obtain ⟨hpb, hblock⟩ := g.blockOf_of_translate h
    obtain ⟨-, -, hlt⟩ := (g.translate_eq_some_iff lp pp pb).mp h
    have hstart : g.blockStart ≤ pb := hpb.trans hblock ▸ Nat.le_add_left _ _
    have hpage : g.blockOf pp < g.blockEnd := hpb ▸ hlt
    exact ⟨hstart, hlt, (Nat.div_lt_iff_lt_mul g.pagesPerBlock_pos).mp hpage, g.page_fits (g.translate_lt h),
      g.translate_lt_two_pow h⟩
  · have hblock : g.blockOf (g.blockStart * g.pagesPerBlock) = g.blockStart :=
      Nat.mul_div_cancel _ g.pagesPerBlock_pos
    exact (g.translate_eq_some_iff _ _ _).mpr ⟨(Nat.zero_add _).symm, hblock.symm, g.blockStart_lt⟩

/-- Settles O11: both blocks are shifted by `BLOCK_START`, which drops out of the comparison. -/
theorem planeVerdictIsTheSameOnLogicalBlocks : Obligations.PlaneVerdictIsTheSameOnLogicalBlocks := by
  intro g l1 l2 p1 p2 b1 b2 h1 h2
  rw [g.planeAligned_iff, (g.blockOf_of_translate h1).2, (g.blockOf_of_translate h2).2]
  exact ⟨Nat.ModEq.add_right_cancel' g.blockStart, Nat.ModEq.add_right g.blockStart⟩

/-- The plane verdict on two translated pages is that on their physical blocks. -/
theorem Geometry.planeAligned_of_translate (g : Geometry) {l1 l2 p1 p2 b1 b2 : Nat}
    (h1 : g.translate l1 = some (p1, b1)) (h2 : g.translate l2 = some (p2, b2)) :
    g.planeAligned p1 p2 = true ↔ b1 % g.planeNum = b2 % g.planeNum := by
  rw [g.planeAligned_iff, (g.blockOf_of_translate h1).1, (g.blockOf_of_translate h2).1]

/-- The window's blocks cover the bytes from the start of the first to the end of the last. -/
theorem Geometry.exists_windowBlock_iff (g : Geometry) (a : Nat) :
    (∃ b ∈ g.windowBlocks, g.blockBase b ≤ a ∧ a < g.blockBase b + g.blockSize) ↔
      g.blockStart * g.blockSize ≤ a ∧ a < g.blockEnd * g.blockSize := by
  simp only [g.mem_windowBlocks, Geometry.blockBase, ← Nat.succ_mul]
  constructor
  · rintro ⟨b, ⟨hstart, hend⟩, hlo, hhi⟩
    exact ⟨(Nat.mul_le_mul_right _ hstart).trans hlo, hhi.trans_le (Nat.mul_le_mul_right _ hend)⟩
  · rintro ⟨hlo, hhi⟩
    have hpos : 0 < g.blockSize := Nat.pos_of_ne_zero fun h => by simp [h] at hhi
    exact ⟨a / g.blockSize, ⟨(Nat.le_div_iff_mul_le hpos).mpr hlo, (Nat.div_lt_iff_lt_mul hpos).mpr hhi⟩,
      Nat.div_mul_le_self _ _, (Nat.div_lt_iff_lt_mul hpos).mp (Nat.lt_succ_self _)⟩

namespace Machine

/-- Settles O10: the mask of the model's check is the remainder by `PLANE_NUM`. -/
theorem planeCheckComparesBlocksModuloPlanes : Obligations.PlaneCheckComparesBlocksModuloPlanes := by
  intro s
  have haligned := s.cfg.planeAligned_iff s.arg0Value s.arg1Value
  unfold Geometry.blockOf at haligned
  simp only [← haligned]
  rfl

end Machine

end Sys2Proof
end

section
/-! 40_ecc_codec.md rules R141 to R153: the codec. Its sums modulo 2 are counts modulo 2, so each accumulator is read off
bit by bit, and each is linear over XOR. -/

namespace Sys2Proof.Machine

/-! ### Counting modulo 2 -/

/-- Whether a list has an odd number of elements that satisfy `p`. -/
def oddCount {α : Type} (p : α → Bool) (l : List α) : Bool := l.countP p % 2 == 1

@[simp] theorem oddCount_nil {α : Type} (p : α → Bool) : oddCount p [] = false := rfl

@[simp] theorem oddCount_cons {α : Type} (p : α → Bool) (a : α) (l : List α) :
    oddCount p (a :: l) = (p a ^^ oddCount p l) := by
  unfold oddCount
  rw [List.countP_cons]
  cases p a <;> rcases Nat.mod_two_eq_zero_or_one (l.countP p) with h | h <;> simp [Nat.add_mod, h]

theorem oddCount_congr {α : Type} {p q : α → Bool} {l : List α} (h : ∀ a ∈ l, p a = q a) :
    oddCount p l = oddCount q l := by
  unfold oddCount
  rw [List.countP_congr fun a ha => by rw [h a ha]]

/-- Counting modulo 2 is linear over XOR. -/
theorem oddCount_xor {α : Type} (p q : α → Bool) (l : List α) :
    oddCount (fun a => p a ^^ q a) l = (oddCount p l ^^ oddCount q l) := by
  induction l with
  | nil => rfl
  | cons a l ih =>
    simp only [oddCount_cons, ih, Bool.xor_assoc, Bool.xor_left_comm (q a)]

/-- The parity of a byte is that of its set bits (R141). -/
theorem oddParity_eq_oddCount (b : Byte) : oddParity b = oddCount (fun k => b.getLsbD k) (List.range 8) := by
  have hsum : ∀ l : List Nat, (l.map fun k => (b.getLsbD k).toNat).sum = l.countP fun k => b.getLsbD k := by
    intro l
    induction l with
    | nil => rfl
    | cons k l ih =>
      rw [List.map_cons, List.sum_cons, ih, List.countP_cons]
      cases b.getLsbD k <;> simp [Nat.add_comm]
  unfold oddParity popcount oddCount
  rw [hsum]

theorem oddParity_xor (a b : Byte) : oddParity (a ^^^ b) = (oddParity a ^^ oddParity b) := by
  simp only [oddParity_eq_oddCount, BitVec.getLsbD_xor, oddCount_xor]

theorem oddParity_twoPow : ∀ b < 8, oddParity (BitVec.twoPow 8 b) = true := by decide

/-! ### The line accumulators -/

/-- The loop of R142 with contribution `c`: each byte of odd parity contributes `c` of its index. -/
def lineFold (c : Nat → Byte) : Nat → List Byte → Byte
  | _, [] => 0
  | i, b :: bs => (if oddParity b then c i else 0) ^^^ lineFold c (i + 1) bs

theorem oddLine_eq_lineFold (i : Nat) (d : List Byte) : oddLine i d = lineFold (fun j => BitVec.ofNat 8 j) i d := by
  induction d generalizing i with
  | nil => rfl
  | cons b bs ih => rw [oddLine, lineFold, ih]

theorem evenLine_eq_lineFold (i : Nat) (d : List Byte) : evenLine i d = lineFold (fun j => ~~~(BitVec.ofNat 8 j)) i d := by
  induction d generalizing i with
  | nil => rfl
  | cons b bs ih => rw [evenLine, lineFold, ih]

theorem select_xor (p q : Bool) (c : Byte) :
    (if (p ^^ q) = true then c else 0) = (if p = true then c else 0) ^^^ (if q = true then c else 0) := by
  cases p <;> cases q <;> simp

theorem lineFold_zipWith_xor (c : Nat → Byte) (i : Nat) {d e : List Byte} (h : d.length = e.length) :
    lineFold c i (List.zipWith (· ^^^ ·) d e) = lineFold c i d ^^^ lineFold c i e := by
  induction d generalizing i e with
  | nil => simp [lineFold, List.length_eq_zero_iff.mp h.symm]
  | cons a d ih =>
    cases e with
    | nil => simp at h
    | cons b e =>
      rw [List.zipWith_cons_cons, lineFold, lineFold, lineFold, ih (i + 1) (by simpa using h), oddParity_xor,
        select_xor]
      ac_rfl

/-- Bit `k` of the loop counts the odd bytes whose contribution has bit `k` set. -/
theorem lineFold_getLsbD (c : Nat → Byte) (i k : Nat) (d : List Byte) :
    (lineFold c i d).getLsbD k =
      oddCount (fun j => (c (i + j)).getLsbD k && oddParity (d.getD j 0)) (List.range d.length) := by
  induction d generalizing i with
  | nil => simp [lineFold]
  | cons b bs ih =>
    have htail : oddCount (fun j => (c (i + j)).getLsbD k && oddParity ((b :: bs).getD j 0))
          ((List.range bs.length).map Nat.succ) =
        oddCount (fun j => (c (i + 1 + j)).getLsbD k && oddParity (bs.getD j 0)) (List.range bs.length) := by
      unfold oddCount
      rw [List.countP_map]
      simp only [Function.comp_def, Nat.succ_eq_add_one, List.getD_cons_succ, Nat.add_assoc, Nat.add_comm 1]
    rw [lineFold, BitVec.getLsbD_xor, ih, List.length_cons, List.range_succ_eq_map, oddCount_cons, htail]
    cases h : oddParity b <;> simp [h]

/-- Settles O12: bit `k` of an index is bit `k` of its contribution to `oddL`, and its complement to `evenL`. -/
theorem lineParityBitByBit : Obligations.LineParityBitByBit := by
  intro d k hlen hk
  have hbit : ∀ j, (BitVec.ofNat 8 j).getLsbD k = j.testBit k := fun j => by
    rw [BitVec.getLsbD_ofNat, decide_eq_true hk, Bool.true_and]
  rw [oddLine_eq_lineFold, evenLine_eq_lineFold, lineFold_getLsbD, lineFold_getLsbD, hlen]
  simp only [BitVec.getLsbD_not, hbit, hk, decide_true, Bool.true_and, Nat.zero_add]
  exact ⟨rfl, rfl⟩

/-! ### The column accumulators -/

theorem foldl_select_getLsbD (c : Nat → Byte) (col : Byte) (k : Nat) (bits : List Nat) (acc : Byte) :
    (bits.foldl (fun acc b => if col.getLsbD b then acc ^^^ c b else acc) acc).getLsbD k =
      (acc.getLsbD k ^^ oddCount (fun b => (c b).getLsbD k && col.getLsbD b) bits) := by
  induction bits generalizing acc with
  | nil => simp
  | cons b bits ih =>
    rw [List.foldl_cons, ih, oddCount_cons]
    cases col.getLsbD b <;> simp

/-- Bit `k` of the loop counts the set bits of the sum whose contribution has bit `k` set. -/
theorem columnFold_getLsbD (c : Nat → Byte) (col : Byte) (k : Nat) :
    (columnFold c col).getLsbD k = oddCount (fun b => (c b).getLsbD k && col.getLsbD b) (List.range 8) := by
  rw [columnFold, foldl_select_getLsbD]
  simp

theorem columnFold_xor (c : Nat → Byte) (x y : Byte) : columnFold c (x ^^^ y) = columnFold c x ^^^ columnFold c y := by
  refine BitVec.eq_of_getLsbD_eq fun k _ => ?_
  simp only [BitVec.getLsbD_xor, columnFold_getLsbD, ← oddCount_xor, Bool.and_xor_distrib_left]

/-- Counting with a condition that does not depend on the element. -/
theorem oddCount_const_and {α : Type} (c : Bool) (p : α → Bool) (l : List α) :
    oddCount (fun a => c && p a) l = (c && oddCount p l) := by
  cases c <;> simp [oddCount]

/-- Settles O13: a bit number below 8 has three bits, and its complement `7 - b` the other values of the same three. -/
theorem columnParityBitByBit : Obligations.ColumnParityBitByBit := by
  intro col k
  have hlow : ∀ n < 8, (BitVec.ofNat 8 n).getLsbD k = (decide (k < 3) && n.testBit k) := by
    intro n hn
    rw [BitVec.getLsbD_ofNat]
    by_cases hk : k < 3
    · simp [hk, show k < 8 by omega]
    · have hzero : n.testBit k = false :=
        Nat.testBit_lt_two_pow (lt_of_lt_of_le hn (Nat.pow_le_pow_right (n := 2) (by decide) (by omega : 3 ≤ k)))
      simp [hzero]
  have hodd : ∀ b ∈ List.range 8, ((BitVec.ofNat 8 b).getLsbD k && col.getLsbD b) =
      (decide (k < 3) && (b.testBit k && col.getLsbD b)) := fun b hb => by
    rw [hlow b (List.mem_range.mp hb), Bool.and_assoc]
  have heven : ∀ b ∈ List.range 8, ((BitVec.ofNat 8 (7 - b)).getLsbD k && col.getLsbD b) =
      (decide (k < 3) && (!b.testBit k && col.getLsbD b)) := fun b hb => by
    have hcompl : (7 - b).testBit k = (decide (k < 3) && !b.testBit k) := by
      rw [show 7 - b = 2 ^ 3 - (b + 1) by omega]
      exact Nat.testBit_two_pow_sub_succ (List.mem_range.mp hb) k
    rw [hlow _ (by omega), hcompl, ← Bool.and_assoc, Bool.and_self, Bool.and_assoc]
  rw [oddColumn, evenColumn, columnFold_getLsbD, columnFold_getLsbD, oddCount_congr hodd, oddCount_congr heven,
    oddCount_const_and, oddCount_const_and]
  exact ⟨rfl, rfl⟩

theorem columnSum_zipWith_xor {d e : List Byte} (h : d.length = e.length) :
    columnSum (List.zipWith (· ^^^ ·) d e) = columnSum d ^^^ columnSum e := by
  induction d generalizing e with
  | nil => simp [columnSum, List.length_eq_zero_iff.mp h.symm]
  | cons a d ih =>
    cases e with
    | nil => simp at h
    | cons b e =>
      rw [List.zipWith_cons_cons, columnSum, columnSum, columnSum, ih (by simpa using h)]
      ac_rfl

/-! ### The interleaved bytes -/

/-- A pair is two bits: `even[k]` below `odd[k]` (R144). -/
theorem bitPair_getLsbD (odd even : Byte) (k j : Nat) :
    (bitPair odd even k).getLsbD j = match j with
      | 0 => even.getLsbD k
      | 1 => odd.getLsbD k
      | _ + 2 => false := by
  have hlt : 2 * (odd.getLsbD k).toNat + (even.getLsbD k).toNat < 2 ^ 2 := by
    have := (odd.getLsbD k).toNat_lt
    have := (even.getLsbD k).toNat_lt
    omega
  unfold bitPair
  rw [BitVec.getLsbD_ofNat]
  match j with
  | 0 => cases odd.getLsbD k <;> cases even.getLsbD k <;> rfl
  | 1 => cases odd.getLsbD k <;> cases even.getLsbD k <;> rfl
  | j + 2 =>
    rw [Nat.testBit_lt_two_pow (lt_of_lt_of_le hlt (Nat.pow_le_pow_right (n := 2) (by decide) (by omega : 2 ≤ j + 2)))]
    simp

/-- One round of R144 puts a pair below the bits so far. -/
theorem shift_or_bitPair_getLsbD (r odd even : Byte) (k j : Nat) (hj : j < 8) :
    ((r <<< 2) ||| bitPair odd even k).getLsbD j = match j with
      | 0 => even.getLsbD k
      | 1 => odd.getLsbD k
      | j + 2 => r.getLsbD j := by
  rw [BitVec.getLsbD_or, bitPair_getLsbD, BitVec.getLsbD_shiftLeft]
  match j with
  | 0 => simp
  | 1 => simp
  | j + 2 => simp [hj]

/-- The last pair of the interleaving stands lowest. -/
theorem interleave_reverse_cons (odd even : Byte) (k : Nat) (bits : List Nat) :
    interleave odd even (k :: bits).reverse = (interleave odd even bits.reverse <<< 2) ||| bitPair odd even k := by
  rw [List.reverse_cons, interleave, List.foldl_append]
  rfl

/-- Pair `j` from the end stands at bits `2j + 1` and `2j`. -/
theorem interleave_reverse_getLsbD (odd even : Byte) (bits : List Nat) (j : Nat) (hj : 2 * j + 1 < 8) :
    (interleave odd even bits.reverse).getLsbD (2 * j + 1) = bits[j]?.any (odd.getLsbD ·) ∧
      (interleave odd even bits.reverse).getLsbD (2 * j) = bits[j]?.any (even.getLsbD ·) := by
  induction bits generalizing j with
  | nil => simp [interleave]
  | cons k bits ih =>
    rw [interleave_reverse_cons, shift_or_bitPair_getLsbD _ _ _ _ _ hj, shift_or_bitPair_getLsbD _ _ _ _ _ (by omega)]
    cases j with
    | zero => exact ⟨rfl, rfl⟩
    | succ j => exact ih j (by omega)

/-- Settles O14: the rounds of R144 take the highest pair first, and the shift by 2 leaves the pad pair 0. -/
theorem codeBitTable : Obligations.CodeBitTable := by
  intro d k hk
  have hhigh : [4, 5, 6, 7][k]? = some (k + 4) := by interval_cases k <;> rfl
  have hlow : [0, 1, 2, 3][k]? = some k := by interval_cases k <;> rfl
  have h0 := interleave_reverse_getLsbD (oddLine 0 d) (evenLine 0 d) [4, 5, 6, 7] k (by omega)
  have h1 := interleave_reverse_getLsbD (oddLine 0 d) (evenLine 0 d) [0, 1, 2, 3] k (by omega)
  have h2 := interleave_reverse_getLsbD (oddColumn (columnSum d)) (evenColumn (columnSum d)) [0, 1, 2] k (by omega)
  rw [hhigh] at h0
  rw [hlow] at h1
  have hodd : 2 * k + 1 < 8 := by omega
  have heven : 2 * k < 8 := by omega
  simp only [computeCodeword, rawCode, BitVec.getLsbD_not, BitVec.getLsbD_shiftLeft, hodd, heven, decide_true,
    Bool.true_and]
  refine ⟨congrArg _ h0.1, congrArg _ h0.2, congrArg _ h1.1, congrArg _ h1.2, fun hk3 => ?_, rfl, rfl⟩
  have hcol : [0, 1, 2][k]? = some k := by interval_cases k <;> rfl
  rw [hcol] at h2
  simp only [show 2 * k + 3 < 8 by omega, show 2 * k + 2 < 8 by omega, show ¬(2 * k + 3 < 2) by omega,
    show ¬(2 * k + 2 < 2) by omega, decide_true, decide_false, Bool.not_false, Bool.true_and,
    show 2 * k + 3 - 2 = 2 * k + 1 by omega, show 2 * k + 2 - 2 = 2 * k by omega]
  exact ⟨congrArg _ h2.1, congrArg _ h2.2⟩

/-- The interleaving is linear over XOR. -/
theorem foldl_interleave_xor (o1 e1 o2 e2 : Byte) (bits : List Nat) (r1 r2 : Byte) :
    bits.foldl (fun (r : Byte) k => (r <<< 2) ||| bitPair (o1 ^^^ o2) (e1 ^^^ e2) k) (r1 ^^^ r2) =
      bits.foldl (fun (r : Byte) k => (r <<< 2) ||| bitPair o1 e1 k) r1 ^^^
        bits.foldl (fun (r : Byte) k => (r <<< 2) ||| bitPair o2 e2 k) r2 := by
  induction bits generalizing r1 r2 with
  | nil => rfl
  | cons k bits ih =>
    have hround : ((r1 ^^^ r2) <<< 2) ||| bitPair (o1 ^^^ o2) (e1 ^^^ e2) k =
        ((r1 <<< 2) ||| bitPair o1 e1 k) ^^^ ((r2 <<< 2) ||| bitPair o2 e2 k) := by
      refine BitVec.eq_of_getLsbD_eq fun j hj => ?_
      rw [BitVec.getLsbD_xor, shift_or_bitPair_getLsbD _ _ _ _ _ hj, shift_or_bitPair_getLsbD _ _ _ _ _ hj,
        shift_or_bitPair_getLsbD _ _ _ _ _ hj]
      match j with
      | 0 => exact BitVec.getLsbD_xor
      | 1 => exact BitVec.getLsbD_xor
      | j + 2 => exact BitVec.getLsbD_xor
    rw [List.foldl_cons, List.foldl_cons, List.foldl_cons, hround, ih]

theorem interleave_xor (o1 e1 o2 e2 : Byte) (bits : List Nat) :
    interleave (o1 ^^^ o2) (e1 ^^^ e2) bits = interleave o1 e1 bits ^^^ interleave o2 e2 bits :=
  foldl_interleave_xor o1 e1 o2 e2 bits 0 0

/-- Settles O15: the accumulators are linear, the interleaving is, and so is the last shift. -/
theorem rawCodeIsLinear : Obligations.RawCodeIsLinear := by
  intro d e hd he
  have hlen : d.length = e.length := hd.trans he.symm
  simp only [rawCode, oddLine_eq_lineFold, evenLine_eq_lineFold, oddColumn, evenColumn, lineFold_zipWith_xor _ _ hlen,
    columnSum_zipWith_xor hlen, columnFold_xor, interleave_xor, BitVec.shiftLeft_xor_distrib, and_self]

/-! ### One and two flipped bits -/

theorem lineFold_flipBit (c : Nat → Byte) (s : Nat) {d : List Byte} {i b : Nat} (hi : i < d.length) (hb : b < 8) :
    lineFold c s (flipBit d i b) = lineFold c s d ^^^ c (s + i) := by
  unfold flipBit
  induction d generalizing s i with
  | nil => simp at hi
  | cons a d ih =>
    cases i with
    | zero =>
      rw [List.modify_zero_cons, lineFold, lineFold, oddParity_xor, oddParity_twoPow b hb, select_xor, if_pos rfl]
      ac_rfl
    | succ i =>
      rw [List.modify_succ_cons, lineFold, lineFold, ih (s + 1) (by simpa using hi), BitVec.xor_assoc,
        show s + 1 + i = s + (i + 1) by omega]

theorem columnSum_flipBit {d : List Byte} {i : Nat} (b : Nat) (hi : i < d.length) :
    columnSum (flipBit d i b) = columnSum d ^^^ BitVec.twoPow 8 b := by
  unfold flipBit
  induction d generalizing i with
  | nil => simp at hi
  | cons a d ih =>
    cases i with
    | zero =>
      rw [List.modify_zero_cons, columnSum, columnSum]
      ac_rfl
    | succ i => rw [List.modify_succ_cons, columnSum, columnSum, ih (by simpa using hi), BitVec.xor_assoc]

theorem length_flipBit (d : List Byte) (i b : Nat) : (flipBit d i b).length = d.length := List.length_modify ..

theorem oddColumn_twoPow : ∀ b < 8, oddColumn (BitVec.twoPow 8 b) = BitVec.ofNat 8 b := by decide

/-- A code determines both line accumulators and the odd column accumulator: each of their bits is a bit of the table,
or one of the column's high bits, which are 0. -/
theorem accumulators_of_code_eq {d e : List Byte} (h : computeCodeword d = computeCodeword e) :
    oddLine 0 d = oddLine 0 e ∧ evenLine 0 d = evenLine 0 e ∧
      oddColumn (columnSum d) = oddColumn (columnSum e) := by
  have hline : ∀ k < 8, (oddLine 0 d).getLsbD k = (oddLine 0 e).getLsbD k ∧
      (evenLine 0 d).getLsbD k = (evenLine 0 e).getLsbD k := by
    intro k hk
    by_cases hk4 : k < 4
    · obtain ⟨-, -, hdo, hde, -⟩ := codeBitTable d k hk4
      obtain ⟨-, -, heo, hee, -⟩ := codeBitTable e k hk4
      rw [h] at hdo hde
      exact ⟨Bool.not_inj (hdo.symm.trans heo), Bool.not_inj (hde.symm.trans hee)⟩
    · obtain ⟨j, rfl⟩ : ∃ j, k = j + 4 := ⟨k - 4, by omega⟩
      obtain ⟨hdo, hde, -⟩ := codeBitTable d j (by omega)
      obtain ⟨heo, hee, -⟩ := codeBitTable e j (by omega)
      rw [h] at hdo hde
      exact ⟨Bool.not_inj (hdo.symm.trans heo), Bool.not_inj (hde.symm.trans hee)⟩
  refine ⟨BitVec.eq_of_getLsbD_eq fun k hk => (hline k hk).1, BitVec.eq_of_getLsbD_eq fun k hk => (hline k hk).2,
    BitVec.eq_of_getLsbD_eq fun k hk => ?_⟩
  by_cases hk3 : k < 3
  · obtain ⟨-, -, -, -, hd, -⟩ := codeBitTable d k (by omega)
    obtain ⟨-, -, -, -, he, -⟩ := codeBitTable e k (by omega)
    rw [h] at hd
    exact Bool.not_inj ((hd hk3).1.symm.trans (he hk3).1)
  · rw [(columnParityBitByBit _ k).1, (columnParityBitByBit _ k).1, decide_eq_false hk3, Bool.false_and, Bool.false_and]

theorem xor_left_eq_self {x y : Byte} (h : x ^^^ y = x) : y = 0 := by
  exact (BitVec.xor_right_inj x).mp (h.trans BitVec.xor_zero.symm)

theorem ofNat_inj_of_xor_eq_zero {i j : Nat} (hi : i < 256) (hj : j < 256)
    (h : BitVec.ofNat 8 i ^^^ BitVec.ofNat 8 j = 0) : i = j := by
  have heq : BitVec.ofNat 8 i = BitVec.ofNat 8 j := BitVec.xor_eq_zero_iff.mp h
  simpa [Nat.mod_eq_of_lt hi, Nat.mod_eq_of_lt hj] using congrArg BitVec.toNat heq

/-- Settles O16: one flip changes `oddL` by its index and `evenL` by the complement, which are not both 0; two flips that
keep `oddL` are in one byte, and change `oddC` by two different bit numbers. -/
theorem oneAndTwoBitChangesAreDetected : Obligations.OneAndTwoBitChangesAreDetected := by
  intro d i b hlen hi hb
  have hid : i < d.length := hlen ▸ hi
  refine ⟨fun hcode => ?_, fun j c hj hc hne hcode => hne ?_⟩
  · obtain ⟨hodd, heven, -⟩ := accumulators_of_code_eq hcode
    rw [oddLine_eq_lineFold, oddLine_eq_lineFold, lineFold_flipBit _ _ hid hb] at hodd
    rw [evenLine_eq_lineFold, evenLine_eq_lineFold, lineFold_flipBit _ _ hid hb] at heven
    have hone := xor_left_eq_self heven
    rw [xor_left_eq_self hodd] at hone
    exact absurd hone (by decide)
  · have hjd : j < (flipBit d i b).length := by rw [length_flipBit, hlen]; exact hj
    obtain ⟨hodd, -, hcol⟩ := accumulators_of_code_eq hcode
    rw [oddLine_eq_lineFold, oddLine_eq_lineFold, lineFold_flipBit _ _ hjd hc, lineFold_flipBit _ _ hid hb,
      BitVec.xor_assoc, Nat.zero_add, Nat.zero_add] at hodd
    rw [columnSum_flipBit _ hjd, columnSum_flipBit _ hid, BitVec.xor_assoc, oddColumn, oddColumn, columnFold_xor,
      columnFold_xor] at hcol
    have hij := ofNat_inj_of_xor_eq_zero hi hj (xor_left_eq_self hodd)
    have hbc : BitVec.ofNat 8 b ^^^ BitVec.ofNat 8 c = 0 := by
      rw [← oddColumn_twoPow b hb, ← oddColumn_twoPow c hc]
      exact xor_left_eq_self hcol
    rw [hij, ofNat_inj_of_xor_eq_zero (by omega) (by omega) hbc]

/-! ### Erased pages -/

theorem lineFold_erased (c : Nat → Byte) (s n : Nat) : lineFold c s (erased n) = 0 := by
  unfold erased
  induction n generalizing s with
  | zero => rfl
  | succ n ih =>
    have heven : oddParity eraseValue = false := rfl
    rw [List.replicate_succ, lineFold, ih, heven, if_neg Bool.false_ne_true]
    exact BitVec.xor_zero

/-- Erased bytes cancel in pairs. -/
theorem columnSum_erased (n : Nat) : columnSum (erased (2 * n)) = 0 := by
  unfold erased
  induction n with
  | zero => rfl
  | succ n ih =>
    rw [Nat.mul_succ, List.replicate_succ, List.replicate_succ, columnSum, columnSum, ih]
    rfl

/-- The code of an erased codeword is erased (R153): every accumulator is 0. -/
theorem computeCodeword_erased : computeCodeword (erased 256) = ⟨0xFF, 0xFF, 0xFF⟩ := by
  simp only [computeCodeword, rawCode, oddLine_eq_lineFold, evenLine_eq_lineFold, lineFold_erased,
    columnSum_erased 128]
  decide

theorem codewordOf_erased (n : Nat) {k : Nat} (hk : k < n) : codewordOf (erased (256 * n)) k = erased 256 := by
  unfold codewordOf erased
  rw [List.drop_replicate, List.take_replicate, Nat.min_eq_left (by omega)]

theorem computePageEcc_erased (n : Nat) : computePageEcc (erased (256 * n)) = erased (3 * n) := by
  refine List.eq_replicate_iff.mpr ⟨?_, fun b hb => ?_⟩
  · rw [length_computePageEcc, length_erased, Nat.mul_div_cancel_left _ (by decide)]
  · obtain ⟨k, hk, hb⟩ := List.mem_flatMap.mp hb
    rw [length_erased, Nat.mul_div_cancel_left _ (by decide), List.mem_range] at hk
    rw [codewordOf_erased n hk, computeCodeword_erased] at hb
    simpa [Code.bytes, eraseValue] using hb

/-- Settles O17: a payload is whole codewords, and the code of each erased one is three erased bytes. -/
theorem erasedPagePassesVerification : Obligations.ErasedPagePassesVerification := by
  intro g
  have hecc : computePageEcc (erased g.pageDataSize) = erased g.eccSize := by
    rw [g.pageDataSize_eq, g.eccSize_eq, computePageEcc_erased]
  have hprefix : (erased g.oobSize).take g.eccSize = erased g.eccSize := by
    unfold erased
    rw [List.take_replicate, Nat.min_eq_left g.eccSize_le_oobSize]
  refine ⟨hecc, ?_⟩
  rw [eccOk, hecc, hprefix]
  exact beq_self_eq_true _

end Sys2Proof.Machine
end

section
/-! What each command does, by the answer of its checks (40_ecc_codec.md rules R150 to R158; 42_page_block_ops.md rules
R210 to R240). -/

namespace Sys2Proof.Machine

/-! ### Buffers that hold a byte string -/

theorem Memory.holds_bufWrite (m : Memory) (lo : Nat) (bs : List Byte) : (m.bufWrite lo bs).Holds lo bs :=
  fun k hk => m.bufByte_bufWrite_inside lo bs k hk

/-- Holding a concatenation is holding its parts, one after the other. -/
theorem Memory.Holds.append {m : Memory} {lo : Nat} {bs cs : List Byte} (h : m.Holds lo (bs ++ cs)) :
    m.Holds lo bs ∧ m.Holds (lo + bs.length) cs := by
  constructor
  · intro k hk
    rw [h k (by rw [List.length_append]; omega), List.getElem_append_left hk]
  · intro k hk
    rw [Nat.add_assoc, h (bs.length + k) (by rw [List.length_append]; omega),
      List.getElem_append_right (Nat.le_add_right _ _)]
    simp

/-- A range of a buffer holds some byte string exactly when every byte of it is written. -/
theorem Memory.exists_holds_iff (m : Memory) (lo n : Nat) :
    (∃ bs : List Byte, bs.length = n ∧ m.Holds lo bs) ↔ ∀ k, lo ≤ k → k < lo + n → m.bufByte k ≠ none := by
  simp only [← Memory.bufSlice_eq_ok_iff]
  constructor
  · rintro ⟨bs, hbs⟩ k hlo hhi
    obtain ⟨hlen, hall⟩ := (m.bufSlice_eq_ok_iff lo n bs).mp hbs
    have hk := hall (k - lo) (by omega)
    rw [Nat.add_sub_cancel' hlo] at hk
    simp [hk]
  · exact Memory.bufSlice_ok_of_written

theorem State.payloadOperand_eq_ok_iff (s : State) (data : List Byte) :
    s.payloadOperand = .ok data ↔ data.length = s.cfg.pageDataSize ∧ s.dbuf.Holds 0 data :=
  s.bufSlice_eq_ok_iff .dbuf 0 s.cfg.pageDataSize data

/-- An operand is refused at the lowest unwritten byte of its range. -/
theorem State.bufSlice_eq_error_of_lowest {s : State} {b : BufferName} {lo n i : Nat} (hlo : lo ≤ i) (hhi : i < lo + n)
    (hnone : (s.buffer b).bufByte i = none) (hlowest : ∀ j, lo ≤ j → j < i → (s.buffer b).bufByte j ≠ none) :
    s.bufSlice b lo n = .error (.fault (.uninitialisedBuffer b i)) :=
  (s.bufSlice_eq_error_iff b lo n _).mpr ⟨i, rfl, ⟨hlo, hhi⟩, hnone, hlowest⟩

/-! ### The codec's commands -/

theorem exec_eccCodeword_of_error {s : State} {e : Stop} (h : s.eccCodewordInput = .error e) :
    exec .eccCodeword s = .next (s.stopWith e) := by
  simp only [exec, execEccCodeword, State.runEccCodeword, h]

theorem exec_eccCodeword_of_ok {s : State} {d : List Byte} (h : s.eccCodewordInput = .ok d) :
    exec .eccCodeword s = .next ((s.setResult (computeCodeword d).pack).complete .ok) := by
  simp only [exec, execEccCodeword, State.runEccCodeword, h]

theorem exec_eccPage_of_error {s : State} {e : Stop} (h : s.payloadOperand = .error e) :
    exec .eccPage s = .next (s.stopWith e) := by
  simp only [exec, execEccPage, State.runEccPage, h]

theorem exec_eccPage_of_ok {s : State} {data : List Byte} (h : s.payloadOperand = .ok data) :
    exec .eccPage s = .next ((s.bufWrite .obuf 0 (computePageEcc data)).complete .ok) := by
  simp only [exec, execEccPage, State.runEccPage, h]

theorem exec_eccVerify_of_payload_error {s : State} {e : Stop} (h : s.payloadOperand = .error e) :
    exec .eccVerify s = .next (s.stopWith e) := by
  simp only [exec, execEccVerify, State.runEccVerify, h]

theorem exec_eccVerify_of_prefix_error {s : State} {data : List Byte} {e : Stop} (h : s.payloadOperand = .ok data)
    (hpre : s.prefixOperand = .error e) : exec .eccVerify s = .next (s.stopWith e) := by
  simp only [exec, execEccVerify, State.runEccVerify, h, hpre]

theorem exec_eccVerify_of_ok {s : State} {data pre : List Byte} (h : s.payloadOperand = .ok data)
    (hpre : s.prefixOperand = .ok pre) :
    exec .eccVerify s = .next (s.complete (if computePageEcc data = pre then .ok else .eccMismatch)) := by
  simp only [exec, execEccVerify, State.runEccVerify, h, hpre]

theorem State.eccCodewordInput_of_le {s : State} (h : s.cfg.codewordsPerPage ≤ s.arg0Value) :
    s.eccCodewordInput = .error (.status .badCommand) := if_pos h

theorem State.eccCodewordInput_of_lt {s : State} (h : s.arg0Value < s.cfg.codewordsPerPage) :
    s.eccCodewordInput = s.codewordOperand s.arg0Value := if_neg (Nat.not_le_of_lt h)

/-- Settles O18: the two clauses are the two answers of the index check. -/
theorem eccCodewordPacksTheCode : Obligations.EccCodewordPacksTheCode := by
  intro s d
  refine ⟨fun hpast => ?_, fun hin hlen hdata => ?_⟩
  · exact exec_eccCodeword_of_error (State.eccCodewordInput_of_le hpast)
  · exact exec_eccCodeword_of_ok ((s.eccCodewordInput_eq_ok_iff d).mpr ⟨hin, hlen, hdata⟩)

/-- Settles O19: the codes are written from index 0, three bytes each, and fill exactly `ECC_SIZE` bytes. -/
theorem eccPageStoresTheCodes : Obligations.EccPageStoresTheCodes := by
  intro s data hlen hdata
  have hcodes : data.length / 256 = s.cfg.codewordsPerPage := congrArg (· / 256) hlen
  have hsize := length_computePageEcc_of_payload s.cfg hlen
  have hecc := s.cfg.eccSize_eq
  refine ⟨_, exec_eccPage_of_ok ((s.payloadOperand_eq_ok_iff data).mpr ⟨hlen, hdata⟩), rfl, fun k j hk hj => ?_,
    fun i hi => ?_⟩
  · rw [← getElem?_computePageEcc data k j (hcodes ▸ hk) hj]
    exact (Memory.bufByte_bufWrite _ _ _ _).trans (if_pos ⟨Nat.zero_le _, by omega⟩)
  · exact Memory.bufByte_bufWrite_outside _ _ _ _ (.inr (by omega))

/-- Settles O20: both operands are read, and of `OBUF` only the first `ECC_SIZE` bytes are one. -/
theorem eccVerifyComparesThePrefix : Obligations.EccVerifyComparesThePrefix := by
  intro s data pre hlen hdata hprelen hpre
  exact exec_eccVerify_of_ok ((s.payloadOperand_eq_ok_iff data).mpr ⟨hlen, hdata⟩)
    ((s.bufSlice_eq_ok_iff .obuf 0 _ pre).mpr ⟨hprelen, hpre⟩)

/-! ### READ_PAGE -/

theorem exec_readPage_of_error {s : State} {d o : Bool} {e : Stop} (h : s.readPagePlan o = .error e) :
    exec (.readPage d o) s = .next (s.stopWith e) := by
  simp only [exec, execReadPage, State.runReadPage, h]

theorem exec_readPage_of_ok {s : State} {d o : Bool} {pp : Nat} (h : s.readPagePlan o = .ok pp) :
    exec (.readPage d o) s = .next ((s.loadPage d o pp).complete (s.readPageStatus d pp)) := by
  simp only [exec, execReadPage, State.runReadPage, h]

theorem State.readPagePlan_of_long {s : State} (h : s.cfg.oobSize < s.oobLenValue) :
    s.readPagePlan true = .error (.status .badCommand) := if_pos ⟨rfl, h⟩

theorem State.readPagePlan_of_none {s : State} {o : Bool} (hlen : o = true → s.oobLenValue ≤ s.cfg.oobSize)
    (h : s.cfg.translate s.arg0Value = none) : s.readPagePlan o = .error (.status .ioError) := by
  have hshort : ¬(o ∧ s.oobLenValue > s.cfg.oobSize) := fun hlong => absurd (hlen hlong.1) (Nat.not_le_of_lt hlong.2)
  exact (if_neg hshort).trans ((s.pageOperand_eq_error_iff _ _).mpr ⟨h, rfl⟩)

/-- Settles O24: the two clauses are the two checks of the plan, in its order. -/
theorem readPageChecksInOrder : Obligations.ReadPageChecksInOrder := by
  intro s d o
  refine ⟨?_, fun hlen hnone => exec_readPage_of_error (State.readPagePlan_of_none hlen hnone)⟩
  rintro rfl hlong
  exact exec_readPage_of_error (State.readPagePlan_of_long hlong)

theorem State.loadPage_dbuf (s : State) (d o : Bool) (pp : Nat) :
    (s.loadPage d o pp).dbuf = if d then s.dbuf.bufWrite 0 (s.pagePayload pp) else s.dbuf := by
  cases d <;> cases o <;> rfl

theorem State.loadPage_obuf (s : State) (d o : Bool) (pp : Nat) :
    (s.loadPage d o pp).obuf = if o then s.obuf.bufWrite 0 ((s.pageOob pp).take s.oobLenValue) else s.obuf := by
  cases d <;> cases o <;> rfl

@[simp] theorem State.length_pagePayload (s : State) (pp : Nat) : (s.pagePayload pp).length = s.cfg.pageDataSize :=
  Memory.length_readBytes _ _ _

@[simp] theorem State.length_pageOob (s : State) (pp : Nat) : (s.pageOob pp).length = s.cfg.oobSize :=
  Memory.length_readBytes _ _ _

theorem Memory.take_readBytes (m : Memory) (base : Nat) {k n : Nat} (h : k ≤ n) :
    (m.readBytes base n).take k = m.readBytes base k := by
  unfold Memory.readBytes
  rw [← List.map_take, List.take_range, Nat.min_eq_left h]

/-- READ_PAGE compares the codes of the payload with the first `ECC_SIZE` bytes of the OOB region. -/
theorem State.readPageStatus_eq (s : State) (d : Bool) (pp : Nat) :
    s.readPageStatus d pp =
      if d = true ∧ computePageEcc (s.medium.readBytes (s.cfg.pageBase pp) s.cfg.pageDataSize) ≠
          s.medium.readBytes (s.cfg.oobBase pp) s.cfg.eccSize then .eccMismatch else .ok := by
  have hprefix : (s.pageOob pp).take s.cfg.eccSize = s.medium.readBytes (s.cfg.oobBase pp) s.cfg.eccSize :=
    Memory.take_readBytes _ _ s.cfg.eccSize_le_oobSize
  simp only [State.readPageStatus, eccOk, hprefix, beq_eq_false_iff_ne]
  rfl

/-- Settles O23: a loaded byte is read back inside the bytes written, a kept one outside them. -/
theorem readPageLoadsAndVerifies : Obligations.ReadPageLoadsAndVerifies := by
  intro s d o pp pb ht hlen
  refine ⟨_, exec_readPage_of_ok ((s.readPagePlan_eq_ok_iff o pp).mpr ⟨hlen, pb, ht⟩), ?_, ?_, ?_, ?_, ?_, ?_, ?_,
    s.readPageStatus_eq d pp⟩
  · rw [s.loadPage_frame]
    rfl
  · rintro rfl k hk
    rw [State.complete_dbuf, State.loadPage_dbuf, if_pos rfl]
    simpa [State.pagePayload, State.memRead] using
      s.dbuf.bufByte_bufWrite_inside 0 (s.pagePayload pp) k (by simpa using hk)
  · rintro rfl k hk
    have hle := hlen rfl
    rw [State.complete_obuf, State.loadPage_obuf, if_pos rfl]
    simpa [State.pageOob, State.memRead] using
      s.obuf.bufByte_bufWrite_inside 0 ((s.pageOob pp).take s.oobLenValue) k (by simp; omega)
  · rintro rfl
    exact s.loadPage_dbuf false o pp
  · rintro rfl
    exact s.loadPage_obuf d false pp
  · intro k hk
    rw [State.complete_dbuf, State.loadPage_dbuf]
    split
    · exact Memory.bufByte_bufWrite_outside _ _ _ _ (.inr (by simpa using hk))
    · rfl
  · intro k hk
    rw [State.complete_obuf, State.loadPage_obuf]
    split
    · exact Memory.bufByte_bufWrite_outside _ _ _ _ (.inr (by simp; omega))
    · rfl

/-! ### WRITE_PAGE -/

theorem exec_writePage_of_error {s : State} {o : Bool} {e : Stop} (h : s.writePagePlan o = .error e) :
    exec (.writePage o) s = .next (s.stopWith e) := by
  simp only [exec, execWritePage, State.runWritePage, h]

theorem exec_writePage_of_ok {s : State} {o : Bool} {w : PageWrite} (h : s.writePagePlan o = .ok w) :
    exec (.writePage o) s = .next { s with medium := s.storedMedium w, code := .ok, latched := none } := by
  simp only [exec, execWritePage, State.runWritePage, h]
  rfl

theorem State.writePagePlan_of_none {s : State} {o : Bool} (h : s.cfg.translate s.arg0Value = none) :
    s.writePagePlan o = .error (.status .ioError) := by
  simp only [State.writePagePlan, (s.pageOperand_eq_error_iff _ _).mpr ⟨h, rfl⟩]

theorem State.writePagePlan_of_payload_error {s : State} {o : Bool} {pp pb : Nat} {e : Stop}
    (ht : s.cfg.translate s.arg0Value = some (pp, pb)) (h : s.payloadOperand = .error e) :
    s.writePagePlan o = .error e := by
  simp only [State.writePagePlan, (s.pageOperand_eq_ok_iff _ _).mpr ⟨pb, ht⟩, h]

theorem State.writePagePlan_of_metadata_error {s : State} {o : Bool} {pp pb : Nat} {data : List Byte} {e : Stop}
    (ht : s.cfg.translate s.arg0Value = some (pp, pb)) (hdata : s.payloadOperand = .ok data)
    (h : s.metadataOperand o = .error e) : s.writePagePlan o = .error e := by
  simp only [State.writePagePlan, (s.pageOperand_eq_ok_iff _ _).mpr ⟨pb, ht⟩, hdata, h]

theorem State.writePagePlan_of_ok {s : State} {o : Bool} {pp pb : Nat} {data metadata : List Byte}
    (ht : s.cfg.translate s.arg0Value = some (pp, pb)) (hdata : s.payloadOperand = .ok data)
    (h : s.metadataOperand o = .ok metadata) :
    s.writePagePlan o = .ok ⟨pp, data, computePageEcc data ++ metadata⟩ := by
  simp only [State.writePagePlan, (s.pageOperand_eq_ok_iff _ _).mpr ⟨pb, ht⟩, hdata, h]

/-- Settles O26: the range is WRITE_PAGE's first check. -/
theorem writePageOutOfRange : Obligations.WritePageOutOfRange := by
  intro s o hpast
  exact exec_writePage_of_error (State.writePagePlan_of_none ((s.cfg.translate_eq_none_iff_le _).mpr hpast))

/-- The second transfer is what the OOB region then holds. -/
theorem State.readBytes_storedMedium_oob {s : State} {o : Bool} {w : PageWrite} (h : s.writePagePlan o = .ok w) :
    (s.storedMedium w).readBytes (s.cfg.oobBase w.page) s.cfg.oobSize = w.oob := by
  rw [← (State.length_oob_of_writePagePlan h).2]
  exact Memory.readBytes_write_same _ _ _

/-- The first transfer is what the payload bytes then hold: the second starts after them. -/
theorem State.readBytes_storedMedium_payload {s : State} {o : Bool} {w : PageWrite} (h : s.writePagePlan o = .ok w) :
    (s.storedMedium w).readBytes (s.cfg.pageBase w.page) s.cfg.pageDataSize = w.payload := by
  have hbefore : s.cfg.pageBase w.page + s.cfg.pageDataSize ≤ s.cfg.oobBase w.page := Nat.le_refl _
  rw [State.storedMedium, Memory.readBytes_write_disjoint _ _ _ _ _ (.inl hbefore),
    ← (State.length_oob_of_writePagePlan h).1]
  exact Memory.readBytes_write_same _ _ _

/-- One byte of a range whose bytes are known. -/
theorem Memory.read_of_readBytes {m : Memory} {base n : Nat} {bs : List Byte} (h : m.readBytes base n = bs) {k : Nat}
    (hk : k < n) : some (m.read (base + k)) = bs[k]? := by
  rw [← h, List.getElem?_eq_getElem (by simpa using hk), Memory.getElem_readBytes]

/-- Settles O25: the payload and the OOB region hold the two transfers, and the codes are the first `ECC_SIZE` bytes of
the second. -/
theorem writePageStoresTheRecord : Obligations.WritePageStoresTheRecord := by
  intro s o pp pb data extra ht hlen hdata hextra
  have hpayload := (s.payloadOperand_eq_ok_iff data).mpr ⟨hlen, hdata⟩
  obtain ⟨metadata, hmeta, hbytes⟩ : ∃ metadata, s.metadataOperand o = .ok metadata ∧
      ∀ j < s.cfg.oobFree, metadata[j]? = if o = true then extra[j]? else some eraseValue := by
    cases o with
    | true => exact ⟨extra, (s.metadataOperand_eq_ok_iff true extra).mpr (hextra rfl), fun j _ => rfl⟩
    | false => exact ⟨erased s.cfg.oobFree, rfl, fun j hj => by simp [erased, hj]⟩
  have hplan := State.writePagePlan_of_ok ht hpayload hmeta
  have hrecord := State.readBytes_storedMedium_payload hplan
  have hoob := State.readBytes_storedMedium_oob hplan
  have hsize := length_computePageEcc_of_payload s.cfg hlen
  have hecc := s.cfg.eccSize_eq
  have hfree := s.cfg.eccSize_add_oobFree
  have hcodes : data.length / 256 = s.cfg.codewordsPerPage := congrArg (· / 256) hlen
  refine ⟨_, exec_writePage_of_ok hplan, rfl, fun k hk => ?_, fun k j hk hj => ?_, fun j hj => ?_,
    fun a ha => State.read_storedMedium_outside hplan ha⟩
  · exact Option.some.inj
      ((Memory.read_of_readBytes hrecord (hlen ▸ hk)).trans (List.getElem?_eq_getElem (l := data) hk))
  · rw [Memory.read_of_readBytes hoob (by omega), List.getElem?_append_left (by omega),
      getElem?_computePageEcc data k j (hcodes ▸ hk) hj]
  · rw [Memory.read_of_readBytes hoob (by omega), List.getElem?_append_right (by omega), hsize,
      Nat.add_sub_cancel_left, hbytes j hj]

end Sys2Proof.Machine
end

section
/-! 60_exceptions.md rule R265: the commands that read an unwritten buffer byte. -/

namespace Sys2Proof.Machine

/-- Settles O21: the first operand that each command reads is refused at that byte. -/
theorem unwrittenOperandRaisesTheFault : Obligations.UnwrittenOperandRaisesTheFault := by
  intro s i lo hi c hcommand hlo hhi hnone hlowest
  rcases hcommand with ⟨rfl, hin, rfl, rfl⟩ | ⟨hcommand, rfl, rfl⟩
  · have hcodeword : s.codewordOperand s.arg0Value = .error (.fault (.uninitialisedBuffer .dbuf i)) :=
      State.bufSlice_eq_error_of_lowest hlo hhi hnone hlowest
    exact exec_eccCodeword_of_error ((State.eccCodewordInput_of_lt hin).trans hcodeword)
  · have hpayload : s.payloadOperand = .error (.fault (.uninitialisedBuffer .dbuf i)) :=
      State.bufSlice_eq_error_of_lowest hlo (by omega) hnone hlowest
    rcases hcommand with rfl | rfl | ⟨hwrite, ⟨pp, pb⟩, ht⟩
    · exact exec_eccPage_of_error hpayload
    · exact exec_eccVerify_of_payload_error hpayload
    · rcases hwrite with rfl | rfl <;>
        exact exec_writePage_of_error (State.writePagePlan_of_payload_error ht hpayload)

/-- Settles O22: the payload is read, and the second operand is refused at that byte. -/
theorem unwrittenObufOperandRaisesTheFault : Obligations.UnwrittenObufOperandRaisesTheFault := by
  intro s i lo hi c hwritten hcommand hlo hhi hnone hlowest
  obtain ⟨data, hdata⟩ := (s.dbuf.exists_holds_iff 0 s.cfg.pageDataSize).mpr fun k _ hk => hwritten k (by omega)
  have hpayload := (s.payloadOperand_eq_ok_iff data).mpr hdata
  rcases hcommand with ⟨rfl, rfl, rfl⟩ | ⟨rfl, rfl, rfl, ⟨pp, pb⟩, ht⟩
  · exact exec_eccVerify_of_prefix_error hpayload
      (State.bufSlice_eq_error_of_lowest hlo (by omega) hnone hlowest)
  · have hfree := s.cfg.eccSize_add_oobFree
    have hmeta : s.metadataOperand true = .error (.fault (.uninitialisedBuffer .obuf i)) :=
      State.bufSlice_eq_error_of_lowest hlo (by omega) hnone hlowest
    exact exec_writePage_of_error (State.writePagePlan_of_metadata_error ht hpayload hmeta)

end Sys2Proof.Machine
end

section
/-! 42_page_block_ops.md rules R223 to R240: the round trip, MOVE_PAGE and the erase commands. -/

namespace Sys2Proof.Machine

/-! ### The round trip -/

/-- READ_PAGE.D.O with `OOB_LEN = OOB_SIZE` of a page whose record is known, and its codes with it: both buffers hold the
record, and the verification passes. -/
theorem exec_readPage_of_record {u : State} {pp pb : Nat} {data metadata : List Byte}
    (ht : u.cfg.translate u.arg0Value = some (pp, pb)) (hlen : u.oobLenValue = u.cfg.oobSize)
    (hdata : u.pagePayload pp = data) (hoob : u.pageOob pp = computePageEcc data ++ metadata)
    (hsize : data.length = u.cfg.pageDataSize) :
    ∃ v, exec (.readPage true true) u = .next v ∧ v.code = .ok ∧ v.dbuf.Holds 0 data ∧
      v.obuf.Holds 0 (computePageEcc data ++ metadata) := by
  have hplan := (u.readPagePlan_eq_ok_iff true pp).mpr ⟨fun _ => hlen.le, pb, ht⟩
  refine ⟨_, exec_readPage_of_ok hplan, ?_, ?_, ?_⟩
  · have hecc : eccOk u.cfg.eccSize data (computePageEcc data ++ metadata) = true := by
      rw [eccOk, ← length_computePageEcc_of_payload u.cfg hsize, List.take_left]
      exact beq_self_eq_true _
    rw [State.complete_code, State.readPageStatus, hdata, hoob, hecc]
    rfl
  · rw [State.complete_dbuf, State.loadPage_dbuf, if_pos rfl, hdata]
    exact Memory.holds_bufWrite _ _ _
  · have hwhole : (u.pageOob pp).take u.oobLenValue = u.pageOob pp :=
      List.take_of_length_le (by rw [u.length_pageOob, hlen])
    rw [State.complete_obuf, State.loadPage_obuf, if_pos rfl, hwhole, hoob]
    exact Memory.holds_bufWrite _ _ _

/-- Settles O27: WRITE_PAGE leaves the payload and then codes and metadata in the page record, and READ_PAGE loads that
record. -/
theorem writeThenReadRoundTrip : Obligations.WriteThenReadRoundTrip := by
  intro s t u pp pb data extra ht hlen hdata hextralen hextra hwrite hcfg harg hoobLen hrecord
  have hplan := State.writePagePlan_of_ok ht ((s.payloadOperand_eq_ok_iff data).mpr ⟨hlen, hdata⟩)
    ((s.metadataOperand_eq_ok_iff true extra).mpr ⟨hextralen, hextra⟩)
  cases (exec_writePage_of_ok hplan).symm.trans hwrite
  have hstart : s.cfg.oobBase pp = s.cfg.pageBase pp + s.cfg.pageDataSize := rfl
  have hend := s.cfg.oobBase_add pp
  have hpayload : u.pagePayload pp = data := by
    rw [State.pagePayload, State.memRead, hcfg]
    exact (Memory.readBytes_congr fun k hk => hrecord _ (by omega) (by omega)).trans
      (State.readBytes_storedMedium_payload hplan)
  have hoob : u.pageOob pp = computePageEcc data ++ extra := by
    rw [State.pageOob, State.memRead, hcfg]
    exact (Memory.readBytes_congr fun k hk => hrecord _ (by omega) (by omega)).trans
      (State.readBytes_storedMedium_oob hplan)
  obtain ⟨v, hread, hok, hdbuf, hobuf⟩ := exec_readPage_of_record (by rw [hcfg, harg]; exact ht)
    (by rw [hcfg]; exact hoobLen) hpayload hoob (by rw [hcfg]; exact hlen)
  obtain ⟨hcodes, hfree⟩ := hobuf.append
  rw [length_computePageEcc_of_payload s.cfg hlen, Nat.zero_add] at hfree
  exact ⟨v, hread, hok, hdbuf, hfree, hcodes⟩

/-! ### MOVE_PAGE -/

theorem exec_movePage_of_error {s : State} {e : Stop} (h : s.movePagePlan = .error e) :
    exec .movePage s = .next (s.stopWith e) := by
  simp only [exec, execMovePage, State.runMovePage, h]

theorem exec_movePage_of_ok {s : State} {fp tp : Nat} (h : s.movePagePlan = .ok (fp, tp)) :
    exec .movePage s =
      .next ((s.memWrite (s.cfg.pageBase tp) (s.memRead (s.cfg.pageBase fp) s.cfg.pageSize)).complete .ok) := by
  simp only [exec, execMovePage, State.runMovePage, h]

/-- Either page out of range stops MOVE_PAGE before the plane check. -/
theorem State.movePagePlan_of_none {s : State}
    (h : s.cfg.translate s.arg0Value = none ∨ s.cfg.translate s.arg1Value = none) :
    s.movePagePlan = .error (.status .ioError) := by
  cases hsource : s.cfg.translate s.arg0Value with
  | none => simp only [State.movePagePlan, (s.pageOperand_eq_error_iff _ _).mpr ⟨hsource, rfl⟩]
  | some t =>
    have hdest := h.resolve_left (by simp [hsource])
    simp only [State.movePagePlan, (s.pageOperand_eq_ok_iff _ t.1).mpr ⟨t.2, hsource⟩,
      (s.pageOperand_eq_error_iff _ _).mpr ⟨hdest, rfl⟩]

/-- With both pages in range the plane check decides, on the physical blocks. -/
theorem State.movePagePlan_of_some {s : State} {fp fb tp tb : Nat} (hsource : s.cfg.translate s.arg0Value = some (fp, fb))
    (hdest : s.cfg.translate s.arg1Value = some (tp, tb)) :
    s.movePagePlan =
      if fb % s.cfg.planeNum = tb % s.cfg.planeNum then .ok (fp, tp) else .error (.status .invalidMove) := by
  simp only [State.movePagePlan, (s.pageOperand_eq_ok_iff _ _).mpr ⟨fb, hsource⟩,
    (s.pageOperand_eq_ok_iff _ _).mpr ⟨tb, hdest⟩, s.cfg.planeAligned_of_translate hsource hdest]

/-- Settles O29: the range of both pages comes first, then the plane check. -/
theorem movePageChecksInOrder : Obligations.MovePageChecksInOrder := by
  intro s
  refine ⟨fun hrange => exec_movePage_of_error (State.movePagePlan_of_none hrange), ?_⟩
  intro fp fb tp tb hsource hdest hplanes
  exact exec_movePage_of_error ((State.movePagePlan_of_some hsource hdest).trans (if_neg hplanes))

/-- Settles O28: the one transfer writes what the source record read before. -/
theorem movePageCopiesTheRecord : Obligations.MovePageCopiesTheRecord := by
  intro s fp fb tp tb hsource hdest hplanes
  refine ⟨_, exec_movePage_of_ok ((State.movePagePlan_of_some hsource hdest).trans (if_pos hplanes)), rfl,
    fun k hk => ?_, fun a ha => ?_⟩
  · have hlen : k < (s.memRead (s.cfg.pageBase fp) s.cfg.pageSize).length := by simpa [State.memRead] using hk
    exact (Memory.read_write_inside _ _ _ _ hlen).trans (Memory.getElem_readBytes _ _ _ _ _)
  · exact Memory.read_write_outside _ _ _ _ (by simpa [State.memRead] using ha)

/-- Two ranges that read alike give the same bytes. -/
theorem Memory.readBytes_eq_readBytes {m n : Memory} {lo lo' len : Nat}
    (h : ∀ k < len, m.read (lo + k) = n.read (lo' + k)) : m.readBytes lo len = n.readBytes lo' len :=
  List.map_congr_left fun k hk => h k (List.mem_range.mp hk)

/-- Settles O30: O29 gives the refusal; else O28 gives the destination's bytes, and O23 what READ_PAGE makes of them. -/
theorem moveThenReadReturnsTheSource : Obligations.MoveThenReadReturnsTheSource := by
  intro s fp fb tp tb hsource hdest
  refine ⟨fun htwo hparity => ?_, fun hplanes => ?_⟩
  · exact ⟨_, (movePageChecksInOrder s).2 fp fb tp tb hsource hdest (by rwa [htwo]), rfl⟩
  · obtain ⟨t, hmove, hframe, hcopied, -⟩ := movePageCopiesTheRecord s fp fb tp tb hsource hdest hplanes
    refine ⟨t, hmove, by rw [hframe], fun u hcfg hmedium harg hoobLen => ?_⟩
    have hucfg : u.cfg = s.cfg := by rw [hcfg, hframe]
    have hpayload : ∀ k < s.cfg.pageDataSize,
        u.medium.read (s.cfg.pageBase tp + k) = s.medium.read (s.cfg.pageBase fp + k) := by
      intro k hk
      rw [hmedium, hcopied k (Nat.lt_of_lt_of_le hk (Nat.le_add_right _ _))]
    have hoob : ∀ k < s.cfg.oobSize,
        u.medium.read (s.cfg.oobBase tp + k) = s.medium.read (s.cfg.oobBase fp + k) := by
      intro k hk
      simp only [hmedium, Geometry.oobBase, Nat.add_assoc]
      exact hcopied _ (Nat.add_lt_add_left hk _)
    obtain ⟨v, hread, -, hdbuf, hobuf, -, -, -, -, hcode⟩ :=
      readPageLoadsAndVerifies u true true tp tb (by rw [hucfg, harg]; exact hdest) (fun _ => by rw [hucfg, hoobLen])
    rw [hucfg] at hdbuf hobuf hcode
    refine ⟨v, hread, fun k hk => ?_, fun k hk => ?_, ?_⟩
    · rw [hdbuf rfl k hk, hpayload k hk]
    · rw [hobuf rfl k (by rwa [hoobLen]), hoob k hk]
    · rw [hcode, Memory.readBytes_eq_readBytes hpayload,
        Memory.readBytes_eq_readBytes fun k hk => hoob k (Nat.lt_of_lt_of_le hk s.cfg.eccSize_le_oobSize)]
      simp only [true_and, ne_eq, ite_not]

/-! ### Erase commands -/

/-- A range of erased bytes reads as erased bytes. -/
theorem Memory.readBytes_of_erased {m : Memory} {base n : Nat} (h : ∀ k < n, m.read (base + k) = eraseValue) :
    m.readBytes base n = erased n := by
  refine List.eq_replicate_iff.mpr ⟨m.length_readBytes base n, fun b hb => ?_⟩
  obtain ⟨k, hk, rfl⟩ := List.mem_map.mp hb
  exact h k (List.mem_range.mp hk)

/-- Settles O32: a page of the block lies inside it, so its payload and its OOB region are erased, and O17 says that such a
page verifies. -/
theorem eraseThenReadReturnsErasedBytes : Obligations.EraseThenReadReturnsErasedBytes := by
  intro s t u pp hblock herase hcfg hmedium ht
  cases (exec_eraseBlock_of_lt hblock).symm.trans herase
  have hucfg : u.cfg = s.cfg := hcfg
  rw [hucfg] at ht
  have hin := s.cfg.page_in_block pp
  rw [← (s.cfg.blockOf_of_translate ht).1] at hin
  have herased : ∀ a, s.cfg.pageBase pp ≤ a → a < s.cfg.pageBase pp + s.cfg.pageSize → u.medium.read a = eraseValue := by
    intro a hlo hhi
    rw [hmedium]
    exact (Memory.read_write_erased _ _ _ _).trans (if_pos ⟨by omega, by omega⟩)
  have hsize : s.cfg.pageSize = s.cfg.pageDataSize + s.cfg.oobSize := rfl
  have hstart : s.cfg.oobBase pp = s.cfg.pageBase pp + s.cfg.pageDataSize := rfl
  have hecc := s.cfg.eccSize_le_oobSize
  obtain ⟨v, hread, -, hdbuf, -, -, -, -, -, hcode⟩ :=
    readPageLoadsAndVerifies u true false pp s.arg0Value (by rw [hucfg]; exact ht) (fun h => by cases h)
  rw [hucfg] at hdbuf hcode
  refine ⟨v, hread, ?_, fun k hk => ?_⟩
  · rw [hcode, Memory.readBytes_of_erased fun k hk => herased _ (by omega) (by omega),
      Memory.readBytes_of_erased fun k hk => herased _ (by omega) (by omega), (erasedPagePassesVerification s.cfg).1]
    simp
  · rw [hdbuf rfl k hk, herased _ (by omega) (by omega)]
    rfl

/-- ERASE_WINDOW leaves the medium of its loop, and counts no failure. -/
theorem exec_eraseWindow (s : State) : ∃ m, s.eraseWindowLoop = ({ s with medium := m }, 0) ∧
    exec .eraseWindow s = .next { s with medium := m, result := 0, code := .ok, latched := none } := by
  obtain ⟨m, hloop, -⟩ := s.eraseWindowLoop_spec
  refine ⟨m, hloop, ?_⟩
  simp only [exec, execEraseWindow, State.runEraseWindow, hloop]
  rfl

/-- Settles O33: the loop erases the window's blocks, and the window's blocks are its bytes. -/
theorem eraseWindowErasesExactlyTheWindow : Obligations.EraseWindowErasesExactlyTheWindow := by
  intro s
  obtain ⟨m, hloop, hexec⟩ := exec_eraseWindow s
  have hread := (State.eraseWindowLoop_medium hloop).1
  refine ⟨_, hexec, rfl, fun a hlo hhi => ?_, fun a hout => ?_⟩
  · exact (hread a).trans (if_pos ((s.cfg.exists_windowBlock_iff a).mpr ⟨hlo, hhi⟩))
  · refine (hread a).trans (if_neg fun hin => ?_)
    obtain ⟨hlo, hhi⟩ := (s.cfg.exists_windowBlock_iff a).mp hin
    omega

end Sys2Proof.Machine
end

section
/-! 70_reset_and_hazards.md rule R297: the table of footprints. -/

namespace Sys2Proof.Machine

theorem State.arg0Value_of_latched {s : State} {l : Latched} (h : s.latched = some l) : s.arg0Value = l.arg0.toNat := by
  simp only [State.arg0Value, State.operands, h, Option.getD_some]

theorem State.arg1Value_of_latched {s : State} {l : Latched} (h : s.latched = some l) : s.arg1Value = l.arg1.toNat := by
  simp only [State.arg1Value, State.operands, h, Option.getD_some]

/-- WRITE_PAGE's plan passes exactly when the page is in range and every buffer byte it reads is written. -/
theorem State.exists_writePagePlan_iff (s : State) (o : Bool) (pp : Nat) :
    (∃ w, s.writePagePlan o = .ok w ∧ w.page = pp) ↔
      (∃ pb, s.cfg.translate s.arg0Value = some (pp, pb)) ∧
        (∀ k < s.cfg.pageDataSize, s.dbuf.bufByte k ≠ none) ∧
        (o = true → ∀ k, s.cfg.eccSize ≤ k → k < s.cfg.oobSize → s.obuf.bufByte k ≠ none) := by
  have hdbuf := s.dbuf.exists_holds_iff 0 s.cfg.pageDataSize
  have hobuf := s.obuf.exists_holds_iff s.cfg.eccSize s.cfg.oobFree
  rw [s.cfg.eccSize_add_oobFree] at hobuf
  constructor
  · rintro ⟨w, hplan, rfl⟩
    obtain ⟨hpage, hpayload, metadata, hmeta, -⟩ := (s.writePagePlan_eq_ok_iff o w).mp hplan
    refine ⟨hpage, fun k hk => hdbuf.mp ⟨_, hpayload⟩ k (Nat.zero_le k) (by omega), ?_⟩
    rintro rfl
    exact hobuf.mp ⟨metadata, (s.metadataOperand_eq_ok_iff true metadata).mp hmeta⟩
  · rintro ⟨⟨pb, ht⟩, hpayload, hwritten⟩
    obtain ⟨data, hdata⟩ := hdbuf.mpr fun k _ hk => hpayload k (by omega)
    obtain ⟨metadata, hmeta⟩ : ∃ metadata, s.metadataOperand o = .ok metadata := by
      cases o with
      | false => exact ⟨_, rfl⟩
      | true =>
        obtain ⟨extra, hextra⟩ := hobuf.mpr (hwritten rfl)
        exact ⟨extra, (s.metadataOperand_eq_ok_iff true extra).mpr hextra⟩
    exact ⟨_, State.writePagePlan_of_ok ht ((s.payloadOperand_eq_ok_iff data).mpr hdata) hmeta, rfl⟩

/-- The byte at address `a` is in one of the ranges. -/
def Covers (rs : List Range) (a : Nat) : Prop := ∃ r ∈ rs, r.1 ≤ a ∧ a < r.1 + r.2

theorem not_covers_nil (a : Nat) : ¬Covers [] a := by simp [Covers]

theorem covers_singleton (base n a : Nat) : Covers [(base, n)] a ↔ base ≤ a ∧ a < base + n := by simp [Covers]

theorem State.covers_writePage_iff (s : State) (o : Bool) (a : Nat) :
    Covers (s.footprintOf (.writePage o)) a ↔
      ∃ pp pb, s.cfg.translate s.arg0Value = some (pp, pb) ∧ (∀ k < s.cfg.pageDataSize, s.dbuf.bufByte k ≠ none) ∧
        (o = true → ∀ k, s.cfg.eccSize ≤ k → k < s.cfg.oobSize → s.obuf.bufByte k ≠ none) ∧
        s.cfg.pageBase pp ≤ a ∧ a < s.cfg.pageBase pp + s.cfg.pageSize := by
  constructor
  · intro h
    cases hplan : s.writePagePlan o with
    | error e => simp [State.footprintOf, hplan, not_covers_nil] at h
    | ok w =>
      simp only [State.footprintOf, hplan, covers_singleton] at h
      obtain ⟨⟨pb, ht⟩, hdbuf, hobuf⟩ := (s.exists_writePagePlan_iff o w.page).mp ⟨w, hplan, rfl⟩
      exact ⟨w.page, pb, ht, hdbuf, hobuf, h⟩
  · rintro ⟨pp, pb, ht, hdbuf, hobuf, hin⟩
    obtain ⟨w, hplan, rfl⟩ := (s.exists_writePagePlan_iff o pp).mpr ⟨⟨pb, ht⟩, hdbuf, hobuf⟩
    simpa only [State.footprintOf, hplan, covers_singleton] using hin

theorem State.covers_movePage_iff (s : State) (a : Nat) :
    Covers (s.footprintOf .movePage) a ↔
      ∃ fp fb tp tb, s.cfg.translate s.arg0Value = some (fp, fb) ∧ s.cfg.translate s.arg1Value = some (tp, tb) ∧
        fb % s.cfg.planeNum = tb % s.cfg.planeNum ∧
        s.cfg.pageBase tp ≤ a ∧ a < s.cfg.pageBase tp + s.cfg.pageSize := by
  constructor
  · intro h
    cases hplan : s.movePagePlan with
    | error e => simp [State.footprintOf, hplan, not_covers_nil] at h
    | ok p =>
      obtain ⟨fp, tp⟩ := p
      simp only [State.footprintOf, hplan, covers_singleton] at h
      obtain ⟨⟨fb, hsource⟩, ⟨tb, hdest⟩, hplanes⟩ := (s.movePagePlan_eq_ok_iff fp tp).mp hplan
      exact ⟨fp, fb, tp, tb, hsource, hdest, (s.cfg.planeAligned_of_translate hsource hdest).mp hplanes, h⟩
  · rintro ⟨fp, fb, tp, tb, hsource, hdest, hplanes, hin⟩
    have hplan := (State.movePagePlan_of_some hsource hdest).trans (if_pos hplanes)
    simpa only [State.footprintOf, hplan, covers_singleton] using hin

theorem State.covers_eraseBlock_iff (s : State) (a : Nat) :
    Covers (s.footprintOf .eraseBlock) a ↔ s.arg0Value < s.cfg.blocksInDevice ∧
      s.arg0Value * s.cfg.blockSize ≤ a ∧ a < s.arg0Value * s.cfg.blockSize + s.cfg.blockSize := by
  constructor
  · intro h
    cases hplan : s.eraseBlockPlan with
    | error e => simp [State.footprintOf, hplan, not_covers_nil] at h
    | ok b =>
      obtain ⟨rfl, hlt⟩ := (s.eraseBlockPlan_eq_ok_iff b).mp hplan
      simp only [State.footprintOf, hplan, covers_singleton] at h
      exact ⟨hlt, h⟩
  · rintro ⟨hlt, hin⟩
    simp only [State.footprintOf, (s.eraseBlockPlan_eq_ok_iff _).mpr ⟨rfl, hlt⟩, covers_singleton]
    exact hin

theorem State.covers_eraseWindow_iff (s : State) (a : Nat) :
    Covers (s.footprintOf .eraseWindow) a ↔
      ∃ b, s.cfg.blockStart ≤ b ∧ b < s.cfg.blockEnd ∧ b * s.cfg.blockSize ≤ a ∧
        a < b * s.cfg.blockSize + s.cfg.blockSize := by
  simp [Covers, State.footprintOf, s.cfg.mem_windowBlocks, Geometry.blockBase, and_assoc]

/-- What holds of some command in the latch holds of the one that is there. -/
theorem exists_latched_iff {l : Latched} {i : Instr} (hd : decodeCommand l.cmd = .ok i)
    (P : Latched → Instr → Prop) :
    (∃ l' i', some l = some l' ∧ decodeCommand l'.cmd = .ok i' ∧ P l' i') ↔ P l i := by
  constructor
  · rintro ⟨l', i', hl', hd', h⟩
    cases hl'
    cases hd.symm.trans hd'
    exact h
  · exact fun h => ⟨l, i, rfl, hd, h⟩

/-- Settles O58: the footprint is that of the latched command, and each command's is read off its plan. -/
theorem footprintIsTheTable : Obligations.FootprintIsTheTable := by
  intro s a
  show Covers s.footprint a ↔ _
  cases hl : s.latched with
  | none => simp [State.footprint, hl, not_covers_nil]
  | some l =>
    cases hd : decodeCommand l.cmd with
    | error e => simp [State.footprint, hl, hd, not_covers_nil]
    | ok i =>
      have hfoot : s.footprint = s.footprintOf i := by simp only [State.footprint, hl, hd]
      rw [hfoot, exists_latched_iff hd, ← State.arg0Value_of_latched hl, ← State.arg1Value_of_latched hl]
      cases i with
      | writePage o => simp [s.covers_writePage_iff]
      | movePage => simp [s.covers_movePage_iff]
      | eraseBlock => simp [s.covers_eraseBlock_iff]
      | eraseWindow => simp [s.covers_eraseWindow_iff]
      | _ => simp [State.footprintOf, not_covers_nil]

end Sys2Proof.Machine
end

section
/-! 20_memory.md rules R66 to R71 and 70_reset_and_hazards.md rules R293, R294: the host port. One lemma per kind of
access says what it does to the state; the statements read their addresses off the map and cite it. -/

namespace Sys2Proof.Machine

/-! ### The register map -/

theorem HostReg.ofOffset_reserved {n : Nat} (h4 : n % 4 = 0) (h : (0x18 ≤ n ∧ n ≤ 0x3C) ∨ (0x68 ≤ n ∧ n ≤ 0xFC)) :
    HostReg.ofOffset n = .reserved := by
  unfold HostReg.ofOffset
  split
  case h_17 => rfl
  all_goals omega

/-- Only offset 0x04 is `STATUS`. -/
theorem HostReg.eq_of_ofOffset_status {n : Nat} (h : HostReg.ofOffset n = .status) : n = 0x04 := by
  unfold HostReg.ofOffset at h
  split at h <;> cases h
  rfl

/-- The geometry registers are at offsets 0x40 to 0x64 (R22). -/
theorem HostReg.range_of_ofOffset_geo {n : Nat} {r : GeoReg} (h : HostReg.ofOffset n = .geo r) : 0x40 ≤ n ∧ n ≤ 0x64 := by
  unfold HostReg.ofOffset at h
  split at h <;> cases h
  all_goals decide

/-- A register whose write the block ignores (R29, R71). -/
def HostReg.IsReadOnly : HostReg → Prop
  | .status | .result | .geo _ | .reserved => True
  | .cmd | .arg0 | .arg1 | .oobLen => False

theorem HostReg.isReadOnly_ofOffset {n : Nat} (h : n = 0x04 ∨ 0x14 ≤ n) : (HostReg.ofOffset n).IsReadOnly := by
  unfold HostReg.ofOffset
  split <;> trivial

theorem HostReg.ne_cmd_of_isReadOnly {r : HostReg} (h : r.IsReadOnly) : r ≠ .cmd := by
  rintro rfl
  exact h

theorem State.writeReg_of_isReadOnly (s : State) (v : Word) {r : HostReg} (h : r.IsReadOnly) : s.writeReg v r = s := by
  cases r with
  | cmd | arg0 | arg1 | oobLen => exact h.elim
  | _ => rfl

/-! ### What each kind of access does -/

/-- A read of a register that the duty on completion forbids: it gives the register, and where that duty is not done the
mark. -/
theorem State.hostAccess_read_of_idle {s : State} {a : Word} {r : HostReg} (hidle : s.busy = false)
    (hr : regAt a = some r) (hforbidden : (PortOp.readReg r).allowedWhileBusy = false) :
    s.hostAccess (.read32 a) =
      { s with faultMark := s.unreadMark (.read32 a), response := .word (s.readReg r) } := by
  have hop : (Access.read32 a).portOp? s.cfg = some (.readReg r) := by simp [Access.portOp?, hr]
  rw [State.hostAccess_of_portOp hop (.inl hidle), s.checkCompletion_eq_unreadMark _ _ hforbidden]
  cases r with
  | status | geo r => cases hforbidden
  | _ => rfl

/-- A read of a geometry register is allowed at any time. -/
theorem State.hostAccess_read_geo {s : State} {a : Word} {r : GeoReg} (hr : regAt a = some (.geo r)) :
    s.hostAccess (.read32 a) = { s with response := .word (geometryWord (r.value s.cfg)) } := by
  have hop : (Access.read32 a).portOp? s.cfg = some (.readReg (.geo r)) := by simp [Access.portOp?, hr]
  rw [State.hostAccess_of_portOp hop (.inr rfl), s.checkCompletion_of_allowed _ _ rfl]
  rfl

/-- A register write of an idle block, but that of `CMD`. -/
theorem State.hostAccess_write_of_idle {s : State} {a v : Word} {r : HostReg} (hidle : s.busy = false)
    (hr : regAt a = some r) (hcmd : r ≠ .cmd) :
    s.hostAccess (.write32 a v) =
      { s.writeReg v r with faultMark := s.unreadMark (.write32 a v), response := .ack } := by
  have hop : (Access.write32 a v).portOp? s.cfg = some (.writeReg r v) := by simp [Access.portOp?, hr]
  rw [State.hostAccess_of_portOp hop (.inl hidle), s.checkCompletion_eq_unreadMark _ _ rfl, State.portAccess,
    State.checkStart_of_ne_cmd _ _ _ hcmd]
  cases r <;> rfl

theorem Access.portOp?_read8 {g : Geometry} {a : Word} {b : BufferName} {i : Nat} (h : bufByteAt g a = some (b, i)) :
    (Access.read8 a).portOp? g = some (.readBuf b i) := by
  simp [Access.portOp?, h]

theorem Access.portOp?_write8 {g : Geometry} {a : Word} {b : BufferName} {i : Nat} (h : bufByteAt g a = some (b, i))
    (v : Byte) : (Access.write8 a v).portOp? g = some (.writeBuf b i v) := by
  simp [Access.portOp?, h]

theorem State.hostAccess_write8_of_idle {s : State} {a : Word} {b : BufferName} {i : Nat} (hidle : s.busy = false)
    (h : bufByteAt s.cfg a = some (b, i)) (v : Byte) :
    s.hostAccess (.write8 a v) =
      { s.bufWrite b i [v] with faultMark := s.unreadMark (.write8 a v), response := .ack } := by
  rw [State.hostAccess_of_portOp (Access.portOp?_write8 h v) (.inl hidle), s.checkCompletion_eq_unreadMark _ _ rfl]
  rfl

theorem State.hostAccess_read8_of_written {s : State} {a : Word} {b : BufferName} {i : Nat} {v : Byte}
    (hidle : s.busy = false) (h : bufByteAt s.cfg a = some (b, i)) (hv : (s.buffer b).bufByte i = some v) :
    s.hostAccess (.read8 a) = { s with faultMark := s.unreadMark (.read8 a), response := .byte v } := by
  rw [State.hostAccess_of_portOp (Access.portOp?_read8 h) (.inl hidle), s.checkCompletion_eq_unreadMark _ _ rfl]
  exact State.portAccess_readBuf_of_written (s := { s with faultMark := s.unreadMark (.read8 a) }) (by cases b <;> exact hv)

theorem State.hostAccess_read8_of_unwritten {s : State} {a : Word} {b : BufferName} {i : Nat}
    (hidle : s.busy = false) (h : bufByteAt s.cfg a = some (b, i)) (hnone : (s.buffer b).bufByte i = none) :
    s.hostAccess (.read8 a) =
      { s with
        faultMark := some ((s.unreadMark (.read8 a)).getD (.uninitialisedBuffer b i)), response := .noValue } := by
  rw [State.hostAccess_of_portOp (Access.portOp?_read8 h) (.inl hidle), s.checkCompletion_eq_unreadMark _ _ rfl]
  exact State.portAccess_readBuf_of_unwritten (s := { s with faultMark := s.unreadMark (.read8 a) })
    (by cases b <;> exact hnone)

/-! ### Register reads and writes -/

/-- Settles O38: `STATUS` is the read that the duty asks for; every other of these registers is one that it forbids
before. -/
theorem registerReadsReturnTheRegister : Obligations.RegisterReadsReturnTheRegister := by
  intro s a v rest hidle hp hregister
  rw [step_of_access hp]
  by_cases hstatus : a = 0x04
  · subst hstatus
    have hv : v = s.status := by
      simpa using hregister
    have hread := (s.setPending rest).hostAccess_readStatus
    rw [State.settle_status_of_idle (s.setPending rest) hidle] at hread
    rw [if_pos rfl, if_pos rfl, hv]
    exact congrArg Host.Outcome.next hread
  · obtain ⟨r, hr, hforbidden, hv⟩ :
        ∃ r, regAt a = some r ∧ (PortOp.readReg r).allowedWhileBusy = false ∧ s.readReg r = v := by
      rcases hregister with hlisted | ⟨h4, rfl, hrange⟩
      · simp only [List.mem_cons, Prod.mk.injEq, List.not_mem_nil, or_false, hstatus, false_and, false_or] at hlisted
        rcases hlisted with ⟨rfl, rfl⟩ | ⟨rfl, rfl⟩ | ⟨rfl, rfl⟩ | ⟨rfl, rfl⟩ | ⟨rfl, rfl⟩ <;> exact ⟨_, rfl, rfl, rfl⟩
      · exact ⟨.reserved, by rw [regAt_eq a (by omega) h4, HostReg.ofOffset_reserved h4 hrange], rfl, rfl⟩
    rw [State.hostAccess_read_of_idle (s := s.setPending rest) hidle hr hforbidden, if_neg hstatus, if_neg hstatus, ← hv]
    cases r <;> rfl

/-- Settles O39: each offset is its register of the map, and a value that fits is read as it is. -/
theorem geometryRegistersReadTheGeometry : Obligations.GeometryRegistersReadTheGeometry := by
  intro s a n rest hp hfits hregister
  obtain ⟨r, hr, rfl⟩ : ∃ r, regAt a = some (.geo r) ∧ r.value s.cfg = n := by
    simp only [List.mem_cons, Prod.mk.injEq, List.not_mem_nil, or_false] at hregister
    rcases hregister with ⟨rfl, rfl⟩ | ⟨rfl, rfl⟩ | ⟨rfl, rfl⟩ | ⟨rfl, rfl⟩ | ⟨rfl, rfl⟩ | ⟨rfl, rfl⟩ | ⟨rfl, rfl⟩ |
      ⟨rfl, rfl⟩ | ⟨rfl, rfl⟩ | ⟨rfl, rfl⟩ <;> exact ⟨_, rfl, rfl⟩
  have hword : geometryWord (r.value s.cfg) = BitVec.ofNat 32 (r.value s.cfg) := if_pos hfits
  rw [step_of_access hp, State.hostAccess_read_geo hr, ← hword]
  rfl

/-- Settles O40: each offset is its register of the map, and the write of that register is what `writeReg` makes of it. -/
theorem registerWritesStoreOrAreIgnored : Obligations.RegisterWritesStoreOrAreIgnored := by
  rintro s a v rest m hidle hp rfl
  have hstep : ∀ r, regAt a = some r → r ≠ .cmd → step s = .next { (s.setPending rest).writeReg v r with
      faultMark := s.unreadMark (.write32 a v), response := .ack } := fun r hr hcmd =>
    (step_of_access hp).trans (congrArg _ (State.hostAccess_write_of_idle (s := s.setPending rest) hidle hr hcmd))
  refine ⟨?_, ?_, ?_, fun h4 hlt hrange => ?_⟩
  · rintro rfl
    exact hstep .arg0 rfl (by simp)
  · rintro rfl
    exact hstep .arg1 rfl (by simp)
  · rintro rfl
    exact hstep .oobLen rfl (by simp)
  · have hoffset : a.toNat = 0x04 ∨ 0x14 ≤ a.toNat := hrange.imp_left fun h => by rw [h]; rfl
    have hreadOnly := HostReg.isReadOnly_ofOffset hoffset
    rw [hstep _ (regAt_eq a hlt h4) (HostReg.ne_cmd_of_isReadOnly hreadOnly),
      State.writeReg_of_isReadOnly _ _ hreadOnly]
    rfl

/-! ### The write of `CMD` -/

/-- `BUSY` is bit 31 of the `STATUS` word (R105). -/
theorem State.status_of_busy (s : State) (h : s.busy = true) : s.status = 0x80000000 ||| s.code.value.setWidth 32 := by
  rw [State.status, h]
  cases s.code <;> rfl

theorem State.status_of_idle (s : State) (h : s.busy = false) : s.status = s.code.value.setWidth 32 := by
  rw [State.status, h]
  cases s.code <;> rfl

/-- The write of `CMD` to an idle block: the two duties are checked, then the command starts. -/
theorem State.hostAccess_writeCmd_of_idle {s : State} (hidle : s.busy = false) (w : Word) :
    s.hostAccess (.write32 0x00 w) = { s.startCommand w with
      response := .ack
      faultMark := if s.operandsOwed w = true then
          some ((s.unreadMark (.write32 0x00 w)).getD (.hostProtocolViolation (.write32 0x00 w)))
        else s.unreadMark (.write32 0x00 w) } := by
  rw [State.hostAccess_of_portOp (op := .writeReg .cmd w) rfl (.inl hidle), s.checkCompletion_eq_unreadMark _ _ rfl]
  have howed : ({ s with faultMark := s.unreadMark (.write32 0x00 w) } : State).operandsOwed w = s.operandsOwed w := rfl
  by_cases hw : s.operandsOwed w = true
  · rw [if_pos hw, State.portAccess, State.checkStart_of_operandsOwed _ _ (howed.trans hw)]
    rfl
  · rw [if_neg hw, State.portAccess, State.checkStart_of_not_operandsOwed _ _ (by rw [howed]; simpa using hw)]
    rfl

/-- Settles O41: both checks raise the same mark, and the first that is broken sets it. -/
theorem commandWriteStartsTheCommand : Obligations.CommandWriteStartsTheCommand := by
  intro s w rest hidle hp
  have howed : (s.setPending rest).operandsOwed w = s.operandsOwed w := rfl
  refine ⟨_, (step_of_access hp).trans (congrArg _ (State.hostAccess_writeCmd_of_idle (s := s.setPending rest) hidle w)),
    rfl, fun hbroken => ?_, fun hread hwritten => ?_, ?_⟩
  · rw [← s.operandsOwed_eq_true_iff] at hbroken
    dsimp only [State.unreadMark]
    rw [howed]
    by_cases hread : s.statusOwed = true
    · simp [hread]
    · simp [hread, hbroken.resolve_left hread]
  · rw [← s.operandsOwed_eq_true_iff] at hwritten
    dsimp only [State.unreadMark]
    rw [howed]
    simp [hread, hwritten]
  · rw [s.status_of_idle hidle]
    exact State.status_of_busy _ rfl

end Sys2Proof.Machine
end

section
/-! 20_memory.md rules R67 to R71, 60_exceptions.md rules R264 to R266 and 70_reset_and_hazards.md rules R293, R294: the
buffer windows, the bus errors, and the accesses that break the busy protocol or the duty on completion. -/

namespace Sys2Proof.Machine

/-! ### Buffer bytes -/

theorem State.bufByte_bufWrite_one (s : State) (b c : BufferName) (i k : Nat) (v : Byte) :
    ((s.bufWrite b i [v]).buffer c).bufByte k = if c = b ∧ k = i then some v else (s.buffer c).bufByte k := by
  have hone : ∀ m : Memory, (m.bufWrite i [v]).bufByte k = if k = i then some v else m.bufByte k := by
    intro m
    rw [Memory.bufByte_bufWrite]
    by_cases hk : k = i
    · simp [hk]
    · rw [if_neg (by simp only [List.length_singleton]; omega), if_neg hk]
  cases b <;> cases c <;> simp [State.buffer, hone]

/-- Once the access `a` has left its mark, a later access leaves it as it is. -/
theorem State.unreadMark_of_unreadMark {s t : State} {a : Access} (hmark : t.faultMark = s.unreadMark a)
    (howed : t.statusOwed = s.statusOwed) (a' : Access) : t.unreadMark a' = t.faultMark := by
  unfold State.unreadMark at hmark ⊢
  rw [howed, hmark]
  by_cases h : s.statusOwed = true <;> simp [h]

/-- A read of a written byte, where an earlier access has left its mark. -/
theorem step_read8_of_marked {s t : State} {a' : Access} {a : Word} {b : BufferName} {i : Nat} {v : Byte} {rest : List Move}
    (hidle : t.busy = false) (hp : t.pending = .access (.read8 a) :: rest) (hat : bufByteAt t.cfg a = some (b, i))
    (hv : (t.buffer b).bufByte i = some v) (hmark : t.faultMark = s.unreadMark a')
    (howed : t.statusOwed = s.statusOwed) : step t = .next { t with pending := rest, response := .byte v } := by
  have hv' : ((t.setPending rest).buffer b).bufByte i = some v := by cases b <;> exact hv
  have hmark' : (t.setPending rest).unreadMark (.read8 a) = t.faultMark :=
    State.unreadMark_of_unreadMark (t := t) hmark howed _
  rw [step_of_access hp, State.hostAccess_read8_of_written (s := t.setPending rest) hidle hat hv', hmark']
  rfl

/-- Settles O42: the write gives the byte its value, and the read finds it; the read's mark is already there. -/
theorem bufferByteWriteThenRead : Obligations.BufferByteWriteThenRead := by
  intro s a v b i rest hidle hp haddr
  have hat := (bufByteAt_eq_some_iff s.cfg a b i).mpr haddr
  have hstep := (step_of_access hp).trans
    (congrArg _ (State.hostAccess_write8_of_idle (s := s.setPending (.access (.read8 a) :: rest)) hidle hat v))
  have hbyte : ∀ c k, (({ (s.setPending (.access (.read8 a) :: rest)).bufWrite b i [v] with
      faultMark := s.unreadMark (.write8 a v), response := .ack } : State).buffer c).bufByte k =
        if c = b ∧ k = i then some v else (s.buffer c).bufByte k := fun c k => by
    rw [← s.bufByte_bufWrite_one b c i k v]
    cases c <;> rfl
  refine ⟨_, hstep, by cases b <;> rfl, hbyte,
    step_read8_of_marked (s := s) (a' := .write8 a v) hidle rfl hat ?_ rfl rfl⟩
  exact (hbyte b i).trans (if_pos ⟨rfl, rfl⟩)

/-- Settles O43: the read finds no value, and raises its fault after the mark of the duty. -/
theorem unwrittenBufferReadRaisesTheFault : Obligations.UnwrittenBufferReadRaisesTheFault := by
  intro s a b i rest hidle hp haddr hnone
  have hat := (bufByteAt_eq_some_iff s.cfg a b i).mpr haddr
  have hnone' : ((s.setPending rest).buffer b).bufByte i = none := by cases b <;> exact hnone
  exact (step_of_access hp).trans
    (congrArg _ (State.hostAccess_read8_of_unwritten (s := s.setPending rest) hidle hat hnone'))

/-! ### Bus errors and the busy protocol -/

/-- Settles O44: the port's map answers these accesses with nothing. -/
theorem busErrorsChangeNothing : Obligations.BusErrorsChangeNothing := by
  intro s a rest hp hbus
  have hnone : a.portOp? (s.setPending rest).cfg = none := (Access.portOp?_eq_none_iff s.cfg a).mpr hbus
  rw [step_of_access hp, State.hostAccess, hnone]
  rfl

/-- The port's operations that are allowed while busy are the reads of `STATUS` and of the geometry registers. -/
theorem Access.isStatusOrGeometryRead_of_allowed {g : Geometry} {a : Access} {op : PortOp}
    (hop : a.portOp? g = some op) (hallowed : op.allowedWhileBusy = true) : a.IsStatusOrGeometryRead := by
  cases a <;> simp only [Access.portOp?, Option.map_eq_some_iff, reduceCtorEq] at hop
  case read32 a =>
    obtain ⟨r, hr, rfl⟩ := hop
    unfold regAt at hr
    split at hr
    · next haddr =>
      cases hr
      refine ⟨rfl, rfl, haddr.2, ?_⟩
      cases hreg : HostReg.ofOffset a.toNat with
      | status => exact .inl (HostReg.eq_of_ofOffset_status hreg)
      | geo r => exact .inr (HostReg.range_of_ofOffset_geo hreg)
      | _ => simp [hreg, PortOp.allowedWhileBusy] at hallowed
    · cases hr
  all_goals
    obtain ⟨t, -, rfl⟩ := hop
    cases hallowed

/-- An access that is no bus error and no read of `STATUS` or of a geometry register is a forbidden operation. -/
theorem Access.exists_forbidden_portOp {g : Geometry} {a : Access} (hbus : ¬a.IsBusError g)
    (hread : ¬a.IsStatusOrGeometryRead) : ∃ op, a.portOp? g = some op ∧ op.allowedWhileBusy = false := by
  rw [← Access.portOp?_eq_none_iff] at hbus
  obtain ⟨op, hop⟩ := Option.ne_none_iff_exists'.mp hbus
  exact ⟨op, hop, by simpa using fun hallowed => hread (Access.isStatusOrGeometryRead_of_allowed hop hallowed)⟩

/-- Settles O45: such an access is an operation that is forbidden while busy. -/
theorem busyAccessIsAViolation : Obligations.BusyAccessIsAViolation := by
  intro s a rest hbusy hp hbus hread
  obtain ⟨op, hop, hforbidden⟩ := Access.exists_forbidden_portOp hbus hread
  exact (step_of_access hp).trans (congrArg _ (State.hostAccess_of_busy (s := s.setPending rest) hop hbusy hforbidden))

/-- Settles O46: while busy a read of `STATUS` settles nothing. -/
theorem busyStatusReadIsAllowed : Obligations.BusyStatusReadIsAllowed := by
  intro s rest hbusy hp
  have hread := (s.setPending rest).hostAccess_readStatus
  rw [State.settle_status_of_busy (s.setPending rest) hbusy, State.status_of_busy (s.setPending rest) hbusy] at hread
  exact (step_of_access hp).trans (congrArg _ hread)

/-! ### The duty on completion -/

/-- A forbidden operation of a marked state whose duty is open does what it does of the same state without the duty: it
reads neither field, sets the mark no more, and does not end the duty. -/
theorem State.portAccess_of_marked_owed (s : State) (f : Fault) {op : PortOp} (h : op.allowedWhileBusy = false) :
    ({ s with faultMark := some f, statusOwed := true } : State).portAccess op =
      { ({ s with statusOwed := false } : State).portAccess op with faultMark := some f, statusOwed := true } := by
  cases op with
  | readReg r =>
    cases r with
    | status | geo r => cases h
    | _ => rfl
  | writeReg r v =>
    have hmarked : ∀ r, ({ s with faultMark := some f, statusOwed := true } : State).checkStart v r =
        { s with faultMark := some f, statusOwed := true } := fun r => by
      rcases State.checkStart_cases { s with faultMark := some f, statusOwed := true } v r with h | ⟨-, -, h⟩
      · exact h
      · exact h.trans (State.raise_of_marked rfl _)
    rcases State.checkStart_cases { s with statusOwed := false } v r with h | ⟨-, -, h⟩ <;>
      simp only [State.portAccess, hmarked, h] <;> cases r <;> rfl
  | readBuf b i =>
    cases hbyte : (s.buffer b).bufByte i with
    | none =>
      rw [State.portAccess_readBuf_of_unwritten (by cases b <;> exact hbyte),
        State.portAccess_readBuf_of_unwritten (by cases b <;> exact hbyte)]
      rfl
    | some v =>
      rw [State.portAccess_readBuf_of_written (v := v) (by cases b <;> exact hbyte),
        State.portAccess_readBuf_of_written (v := v) (by cases b <;> exact hbyte)]
      rfl
  | writeBuf b i v => rfl

/-- Settles O59: the mark is raised first, and then the access does what it does where no duty is open. -/
theorem accessBeforeStatusIsAViolation : Obligations.AccessBeforeStatusIsAViolation := by
  intro s a rest hidle howed hp hbus hread
  obtain ⟨op, hop, hforbidden⟩ := Access.exists_forbidden_portOp hbus hread
  have hopen : (s.setPending rest).hostAccess a =
      ({ s.setPending rest with
        faultMark := some (s.faultMark.getD (.hostProtocolViolation a)), statusOwed := true } : State).portAccess op := by
    rw [State.hostAccess_of_portOp (s := s.setPending rest) hop (.inl hidle),
      (s.setPending rest).checkCompletion_of_owed _ _ howed hforbidden, ← howed]
    rfl
  have hsettled : ({ s.setPending rest with statusOwed := false } : State).hostAccess a =
      ({ s.setPending rest with statusOwed := false } : State).portAccess op := by
    rw [State.hostAccess_of_portOp (s := { s.setPending rest with statusOwed := false }) hop (.inl hidle),
      State.checkCompletion_of_settled _ _ _ rfl]
  refine ⟨_, _, step_of_access hp, step_of_access (s := { s with statusOwed := false }) hp, ?_⟩
  rw [hopen, State.portAccess_of_marked_owed _ _ hforbidden, ← hsettled]
  rfl

/-- The port's only operation that ends the duty is the read of `STATUS`, once the command has ended. -/
theorem State.portAccess_ends_duty {s : State} {op : PortOp} (howed : s.statusOwed = true)
    (h : (s.portAccess op).statusOwed = false) : op = .readReg .status ∧ s.busy = false := by
  cases op with
  | readReg r =>
    cases r with
    | status =>
      simp only [State.portAccess, State.respond_statusOwed, State.settle_statusOwed, howed, Bool.true_and] at h
      exact ⟨rfl, h⟩
    | _ => simp [State.portAccess, State.settle, howed] at h
  | writeReg r v => cases r <;> simp [State.portAccess, State.writeReg, howed] at h
  | readBuf b i =>
    cases hbyte : (s.buffer b).bufByte i with
    | none => simp [State.portAccess_readBuf_of_unwritten hbyte, howed] at h
    | some v => simp [State.portAccess_readBuf_of_written hbyte, howed] at h
  | writeBuf b i v => simp [State.portAccess, howed] at h

/-- The access whose operation is the read of `STATUS`. -/
theorem Access.eq_readStatus {g : Geometry} {a : Access} (h : a.portOp? g = some (.readReg .status)) :
    a = .read32 0x04 := by
  cases a <;> simp only [Access.portOp?, Option.map_eq_some_iff, reduceCtorEq, and_false, exists_false] at h
  case read32 a =>
    obtain ⟨r, hr, hreg⟩ := h
    cases hreg
    unfold regAt at hr
    split at hr
    · have haddr : a.toNat = 0x04 := HostReg.eq_of_ofOffset_status (Option.some.inj hr)
      rw [BitVec.eq_of_toNat_eq (y := (0x04 : Word)) haddr]
    · cases hr

theorem State.hostAccess_ends_duty {s : State} {a : Access} (howed : s.statusOwed = true)
    (h : (s.hostAccess a).statusOwed = false) : a = .read32 0x04 ∧ s.busy = false := by
  rcases s.hostAccess_cases a with ⟨-, hacc⟩ | ⟨op, -, -, -, hacc⟩ | ⟨op, hop, -, hacc⟩ <;> rw [hacc] at h
  · simp [howed] at h
  · simp [howed] at h
  · obtain ⟨rfl, hidle⟩ := State.portAccess_ends_duty (by simpa using howed) h
    exact ⟨Access.eq_readStatus hop, by simpa using hidle⟩

/-- The block's turn does not touch the host's duty. -/
theorem State.run_statusOwed {s t : State} (h : s.run = .next t) : t.statusOwed = s.statusOwed := by
  rcases State.run_ends h with ⟨-, rfl⟩ | ⟨i, hends⟩
  · rfl
  · exact hends.statusOwed_eq

/-- Settles O60: of the moves only a reset and a read of `STATUS` clear the field, and the read only when idle. -/
theorem onlyStatusReadOrResetEndsTheDuty : Obligations.OnlyStatusReadOrResetEndsTheDuty := by
  intro s t h howed hended
  rcases step_cases s with ⟨-, hs⟩ | ⟨m, rest, hp, ⟨a, rfl, hs⟩ | ⟨rfl, hs⟩ | ⟨rfl, hs⟩ | ⟨rfl, hs⟩⟩
  · rw [State.run_statusOwed (hs.symm.trans h), howed] at hended
    cases hended
  · cases hs.symm.trans h
    obtain ⟨rfl, hidle⟩ := State.hostAccess_ends_duty (s := s.setPending rest) howed hended
    exact ⟨_, rest, hp, .inr ⟨hidle, .inr rfl⟩⟩
  · cases hs.symm.trans h
    obtain ⟨-, hidle⟩ := State.hostAccess_ends_duty howed hended
    exact ⟨_, rest, hp, .inr ⟨hidle, .inl rfl⟩⟩
  · exact ⟨_, rest, hp, .inl rfl⟩
  · rw [State.run_statusOwed (s := s.setPending rest) (hs.symm.trans h)] at hended
    exact absurd (howed.symm.trans hended) (by simp)

end Sys2Proof.Machine
end

section
/-! 30_encoding.md rules R111, R112 and 70_reset_and_hazards.md rule R302: a `POLL`, and the transactions of a written
command, as runs of the machine. -/

namespace Sys2Proof.Machine

/-! ### Runs -/

theorem run_succ {s t : State} (h : step s = .next t) (k : Nat) : core.run (k + 1) s = core.run k t := by
  have hcore : core.step s = .next t := h
  simp only [Host.Core.run, hcore]

/-- Two runs after one another are one run. -/
theorem run_add {j : Nat} {s t : State} (h : core.run j s = .next t) (k : Nat) :
    core.run (j + k) s = core.run k t := by
  induction j generalizing s with
  | zero => cases h; rw [Nat.zero_add]
  | succ j ih =>
    obtain ⟨u, hu⟩ := (noStepStops s).1
    rw [run_succ hu] at h
    rw [Nat.add_right_comm, run_succ hu, ih h]

/-! ### A `POLL` -/

/-- A `POLL` of an idle block is one read of `STATUS`, and does the host's duty. -/
theorem run_poll_of_idle {s : State} {rest : List Move} (hidle : s.busy = false) (hp : s.pending = .poll :: rest) :
    core.run 1 s = .next { s with pending := rest, response := .word s.status, statusOwed := false } := by
  have hread := s.hostAccess_readStatus
  rw [State.settle_status_of_idle s hidle] at hread
  rw [run_succ (step_of_poll hp), State.pollOnce, hread, hidle]
  rfl

/-- A `POLL` of a busy block reads `STATUS`, lets the block take its turn, and reads `STATUS` again. -/
theorem run_poll_of_busy {s v : State} {rest : List Move} (hbusy : s.busy = true) (hp : s.pending = .poll :: rest)
    (hrun : ({ s with pending := .poll :: rest, response := .word s.status } : State).run = .next v)
    (hidle : v.busy = false) (hv : v.pending = .poll :: rest) :
    core.run 3 s = .next { v with pending := rest, response := .word v.status, statusOwed := false } := by
  have hread := s.hostAccess_readStatus
  rw [State.settle_status_of_busy s hbusy] at hread
  have hfirst : step s = .next { s with pending := .run :: .poll :: rest, response := .word s.status } := by
    rw [step_of_poll hp, State.pollOnce, hread, hbusy]
    rfl
  have hturn : step { s with pending := .run :: .poll :: rest, response := .word s.status } = .next v :=
    (step_of_run rfl).trans hrun
  rw [run_succ hfirst, run_succ hturn, run_poll_of_idle hidle hv]

/-- The turn of a busy block leaves it idle, with the same moves to make. -/
theorem State.run_of_busy {s : State} (hbusy : s.busy = true) :
    ∃ t, s.run = .next t ∧ t.busy = false ∧ t.pending = s.pending := by
  obtain ⟨t, hrun⟩ := s.run_next
  rcases State.run_ends hrun with ⟨hidle, -⟩ | ⟨i, hends⟩
  · exact absurd (hbusy.symm.trans hidle) (by simp)
  · exact ⟨t, hrun, t.busy_eq_false_iff.mpr hends.latched_eq, by rw [hends.frame]⟩

/-- Settles O47: one step of an idle block; of a busy one three, with its turn between the two reads. -/
theorem everyPollEnds : Obligations.EveryPollEnds := by
  intro s rest hp
  cases hbusy : s.busy with
  | false => exact ⟨1, by omega, _, run_poll_of_idle hbusy hp, rfl, hbusy, rfl, rfl⟩
  | true =>
    obtain ⟨v, hrun, hidle, hpending⟩ :=
      State.run_of_busy (s := { s with pending := .poll :: rest, response := .word s.status }) hbusy
    exact ⟨3, by omega, _, run_poll_of_busy hbusy hp hrun hidle hpending, rfl, hidle, rfl, rfl⟩

/-! ### The transactions of a written command -/

/-- The mark `m` is that of `s`, where the host has read the last command's `STATUS`. -/
def State.MarkKept (s : State) (m : Option Fault) : Prop := s.statusOwed = false → m = s.faultMark

/-- The state after one operand write of a written command, made where `c` says that the command reads the operand. -/
def State.afterOperand (s : State) (c : Bool) (r : HostReg) (v : Word) (rest : List Move) (p : Response)
    (m : Option Fault) : State :=
  { (if c then s.writeReg v r else s) with pending := rest, response := p, faultMark := m }

theorem State.afterOperand_host (s : State) (c : Bool) {r : HostReg} (hcmd : r ≠ .cmd) (v : Word) (rest : List Move)
    (p : Response) (m : Option Fault) :
    (s.afterOperand c r v rest p m).busy = s.busy ∧ (s.afterOperand c r v rest p m).statusOwed = s.statusOwed := by
  cases c with
  | false => exact ⟨rfl, rfl⟩
  | true =>
    cases r with
    | cmd => exact absurd rfl hcmd
    | _ => exact ⟨rfl, rfl⟩

/-- One operand write of a written command (R111). -/
theorem run_operandWrite {s : State} {a v : Word} {r : HostReg} {rest : List Move} (c : Bool) (hr : regAt a = some r)
    (hcmd : r ≠ .cmd) (hidle : s.busy = false) (hp : s.pending = (if c then [Move.w32 a v] else []) ++ rest) :
    ∃ p m, core.run c.toNat s = .next (s.afterOperand c r v rest p m) ∧ s.MarkKept m := by
  cases c with
  | false =>
    have hrest : s.pending = rest := hp
    exact ⟨s.response, s.faultMark, by rw [← hrest]; rfl, fun _ => rfl⟩
  | true =>
    have hstep := (step_of_access hp).trans
      (congrArg _ (State.hostAccess_write_of_idle (s := s.setPending rest) (v := v) hidle hr hcmd))
    refine ⟨.ack, s.unreadMark (.write32 a v), (run_succ hstep 0).trans ?_, fun howed => by simp [howed]⟩
    cases r <;> rfl

/-- The state with the operands of a written command in its registers, those that the command reads. -/
def State.withOperands (s : State) (i : Instr) (a0 a1 n : Word) : State :=
  { s with
    arg0 := if i.readsArg0 then a0 else s.arg0
    arg1 := if i.readsArg1 then a1 else s.arg1
    oobLen := if i.readsOobLen then n else s.oobLen
    written := ⟨s.written.arg0 || i.readsArg0, s.written.arg1 || i.readsArg1, s.written.oobLen || i.readsOobLen⟩ }

theorem State.afterOperand_three (s : State) (i : Instr) (a0 a1 n : Word) (r0 r1 r2 : List Move) (p0 p1 p2 : Response)
    (m0 m1 m2 : Option Fault) :
    ((s.afterOperand i.readsArg0 .arg0 a0 r0 p0 m0).afterOperand i.readsArg1 .arg1 a1 r1 p1 m1).afterOperand
        i.readsOobLen .oobLen n r2 p2 m2 =
      { s.withOperands i a0 a1 n with pending := r2, response := p2, faultMark := m2 } := by
  unfold State.afterOperand State.withOperands
  cases i.readsArg0 <;> cases i.readsArg1 <;> cases i.readsOobLen <;> simp [State.writeReg]

/-- No command reads all three operand registers (R109). -/
theorem operandCount_le (i : Instr) : i.readsArg0.toNat + (i.readsArg1.toNat + i.readsOobLen.toNat) ≤ 2 := by
  cases i with
  | readPage d o => cases o <;> exact Nat.le_of_ble_eq_true rfl
  | _ => exact Nat.le_of_ble_eq_true rfl

/-- The operand writes of a written command store the operands it reads, and break no duty. -/
theorem run_operandWrites {s : State} {i : Instr} {a0 a1 n : Word} {rest : List Move} (hidle : s.busy = false)
    (hp : s.pending = (if i.readsArg0 then [Move.w32 0x08 a0] else []) ++
      ((if i.readsArg1 then [Move.w32 0x0C a1] else []) ++ ((if i.readsOobLen then [Move.w32 0x10 n] else []) ++ rest))) :
    ∃ k ≤ 2, ∃ p m, core.run k s =
        .next { s.withOperands i a0 a1 n with pending := rest, response := p, faultMark := m } ∧ s.MarkKept m := by
  obtain ⟨p0, m0, hrun0, hm0⟩ := run_operandWrite (r := .arg0) i.readsArg0 rfl (by simp) hidle hp
  obtain ⟨hidle0, howed0⟩ := s.afterOperand_host i.readsArg0 (r := .arg0) (by simp) a0 _ p0 m0
  obtain ⟨p1, m1, hrun1, hm1⟩ := run_operandWrite (a := 0x0C) (v := a1) (r := .arg1)
    (rest := (if i.readsOobLen then [Move.w32 0x10 n] else []) ++ rest) i.readsArg1 rfl (by simp) (hidle0.trans hidle) rfl
  obtain ⟨hidle1, howed1⟩ := State.afterOperand_host _ i.readsArg1 (r := .arg1) (by simp) a1 _ p1 m1
  obtain ⟨p2, m2, hrun2, hm2⟩ :=
    run_operandWrite (a := 0x10) (v := n) (r := .oobLen) (rest := rest) i.readsOobLen rfl (by simp)
      (hidle1.trans (hidle0.trans hidle)) rfl
  refine ⟨_, operandCount_le i, p2, m2, ?_, fun howed => ?_⟩
  · rw [run_add hrun0, run_add hrun1, hrun2, State.afterOperand_three]
  · exact (hm2 (howed1.trans (howed0.trans howed))).trans ((hm1 (howed0.trans howed)).trans (hm0 howed))

/-- The host has done its duty before the `CMD` write: the registers the command reads are written. -/
theorem State.operandsOwed_withOperands (s : State) (i : Instr) (a0 a1 n : Word) :
    (s.withOperands i a0 a1 n).operandsOwed (encode i) = false := by
  simp only [State.operandsOwed, (decodeIsExactlyEncode (encode i) i).mpr rfl, State.withOperands]
  cases i.readsArg0 <;> cases i.readsArg1 <;> cases i.readsOobLen <;> simp

/-- The last two transactions of a written command, from a host that has written its operands: the write of `CMD`, and
the `POLL` of the busy block, whose turn runs the command. -/
theorem run_writeCmd_poll {s : State} {i : Instr} {rest : List Move} (hidle : s.busy = false)
    (hp : s.pending = Move.w32 0x00 (encode i) :: .poll :: rest) (hwritten : s.operandsOwed (encode i) = false) :
    ∃ r m v, s.MarkKept m ∧ (s.statusOwed = true → m ≠ none) ∧
      exec i { s.startCommand (encode i) with pending := .poll :: rest, response := r, faultMark := m } = .next v ∧
      core.run 4 s = .next { v with pending := rest, response := .word v.status, statusOwed := false } := by
  have hdecode : decodeCommand (encode i) = .ok i := (decodeIsExactlyEncode (encode i) i).mpr rfl
  obtain ⟨t, hstep, ht, hbroken, hkept, -⟩ := commandWriteStartsTheCommand s (encode i) (.poll :: rest) hidle hp
  rw [← s.operandsOwed_eq_true_iff, hwritten] at hbroken hkept
  obtain ⟨v, hexec, hends⟩ := exec_ends i { t with pending := .poll :: rest, response := .word t.status }
  have hbusy : t.busy = true := by rw [ht]; rfl
  have hturn : ({ t with pending := .poll :: rest, response := .word t.status } : State).run = .next v :=
    (State.run_of_command (l := ⟨encode i, s.arg0, s.arg1, s.oobLen⟩) (by rw [ht]) hdecode).trans hexec
  refine ⟨.word t.status, t.faultMark, v, fun hread => hkept hread (by simp), fun hread => ?_, ?_, ?_⟩
  · rw [hbroken (.inl hread)]
    simp
  · rw [← hexec, ht]
    rfl
  · rw [run_succ hstep]
    exact run_poll_of_busy hbusy (by rw [ht]) hturn (v.busy_eq_false_iff.mpr hends.latched_eq) (by rw [hends.frame])

/-- Settles O48: the operand writes store the operands and break no duty, so the write of `CMD` starts the command as the
rule says, and its `POLL` runs it. -/
theorem expandedCommandRunsToItsEnd : Obligations.ExpandedCommandRunsToItsEnd := by
  intro i s a0 a1 n rest hidle hp
  simp only [expandCommand, List.append_assoc] at hp
  obtain ⟨k, hk, p, m0, hoperands, hm0⟩ := run_operandWrites hidle hp
  obtain ⟨r, m, v, hm, hmarked, hexec, hrun⟩ := run_writeCmd_poll
    (s := { s.withOperands i a0 a1 n with
      pending := [Move.w32 0x00 (encode i), .poll] ++ rest, response := p, faultMark := m0 })
    hidle rfl (s.operandsOwed_withOperands i a0 a1 n)
  exact ⟨k + 4, by omega, r, m, v, fun hread => (hm hread).trans (hm0 hread), hmarked, hexec,
    (run_add hoperands 4).trans hrun⟩

end Sys2Proof.Machine
end
